-- ==== Sys2Proof/Word.lean ====
section
/-! DEFINITION. The words that cross the ports of the hardware, as bits, and the two closed lists of
names (waveforms, envelope states) that its registers hold. -/

namespace Sys2Proof

/-- One command word of the command port: 208 bits, bit 207 the most significant (rules R12, R80). -/
abbrev CommandWord := BitVec 208

/-- A 48-bit argument field `A0`..`A3` of a command word (rule R80), still as bits. -/
abbrev Arg := BitVec 48

/-- The `IDX` field of a command word: a voice or channel index (rule R81). -/
abbrev IdxField := BitVec 5

/-- The `OPI` field of a command word: an operator index (rule R81). -/
abbrev OpiField := BitVec 3

/-- One word of the stream port: a signed 16-bit two's-complement value (rules R62, R206). -/
abbrev StreamWord := BitVec 16

/-- The four waveform shapes of an operator (rule R21; log 12). -/
inductive Waveform where
  | sine
  | sawtooth
  | square
  | triangle
deriving DecidableEq, Repr

/-- The five states of an operator's envelope (rules R22, R110; log 12). -/
inductive EnvState where
  | off
  | attack
  | decay
  | sustain
  | release
deriving DecidableEq, Repr

end Sys2Proof
end

