-- ==== Sys2Proof/Syntax.lean ====
section
/-! DEFINITION. The commands of the command port: one constructor per row of the opcode table, in the
table's order, holding exactly the fields the row uses (rule R83). A field is kept as the bits the word
carries: its range check and its clamp are part of the command's meaning (rule R84). -/

namespace Sys2Proof

/-- The 23 commands (rule R83). -/
inductive Instr where
  /-- `NOP` (rule R169). -/
  | nop
  /-- `NOTE_ON`: note, velocity (rule R131). -/
  | noteOn (note vel : Arg)
  /-- `NOTE_OFF`: note (rule R133). -/
  | noteOff (note : Arg)
  /-- `ALL_NOTES_OFF` (rule R134). -/
  | allNotesOff
  /-- `SET_ALGORITHM`: channel, algorithm index (rule R151). -/
  | setAlgorithm (chan : IdxField) (index : Arg)
  /-- `SET_OP_FREQ`: voice, operator, hertz (rule R152). -/
  | setOpFreq (voice : IdxField) (op : OpiField) (hz : Arg)
  /-- `SET_OP_AMP`: voice, operator, amplitude (rule R153). -/
  | setOpAmp (voice : IdxField) (op : OpiField) (amp : Arg)
  /-- `SET_OP_MODIDX`: voice, operator, modulation index (rule R154). -/
  | setOpModidx (voice : IdxField) (op : OpiField) (mi : Arg)
  /-- `SET_OP_WAVE`: voice, operator, waveform code (rule R155). -/
  | setOpWave (voice : IdxField) (op : OpiField) (wave : Arg)
  /-- `SET_ENVELOPE`: voice, operator, attack, decay, sustain, release (rule R156). -/
  | setEnvelope (voice : IdxField) (op : OpiField) (a d su r : Arg)
  /-- `SET_MASTER_VOL`: volume (rule R157). -/
  | setMasterVol (vol : Arg)
  /-- `SET_SAMPLE_RATE`: hertz, a plain integer (rule R160). -/
  | setSampleRate (hz : Arg)
  /-- `SET_PITCH_BEND`: channel, multiplier (rule R161). -/
  | setPitchBend (chan : IdxField) (mult : Arg)
  /-- `SET_MOD_WHEEL`: channel, value (rule R162). -/
  | setModWheel (chan : IdxField) (value : Arg)
  /-- `SET_REVERB`: amount (rule R163). -/
  | setReverb (amount : Arg)
  /-- `SET_CHORUS`: amount (rule R164). -/
  | setChorus (amount : Arg)
  /-- `SET_DISTORTION`: amount (rule R165). -/
  | setDistortion (amount : Arg)
  /-- `SET_TPL_OSC`: template row, ratio, amplitude, modulation index, waveform code (rule R166). -/
  | setTplOsc (op : OpiField) (ratio amp mi wave : Arg)
  /-- `SET_TPL_ENV`: template row, attack, decay, sustain, release (rule R167). -/
  | setTplEnv (op : OpiField) (a d su r : Arg)
  /-- `SET_CUR_CHAN`: channel (rule R168). -/
  | setCurChan (chan : IdxField)
  /-- `START` (rule R197). -/
  | start
  /-- `STOP` (rule R198). -/
  | stop
  /-- `CLR_OVERRUN` (rule R201). -/
  | clrOverrun
deriving DecidableEq, Repr

end Sys2Proof
end

