-- ==== Sys2Proof/WellFormed.lean ====
section
/-! DEFINITION. Which commands pass the checks of rule R84, steps 2 and 4: every index field the command
uses names something that exists, and every enumeration or note number is in range. A command that is
not well-formed decodes and executes; its effect is to be dropped (rules R15, R150). -/

namespace Sys2Proof

/-- A voice index is legal: 0..15 (rule R61). -/
def voiceOk (idx : IdxField) : Bool := decide (idx.toNat ≤ 15)

/-- A channel index is legal: 0..7 (rule R61). -/
def chanOk (idx : IdxField) : Bool := decide (idx.toNat ≤ 7)

/-- An operator index is legal: 0..5 (rule R61). -/
def opOk (opi : OpiField) : Bool := decide (opi.toNat ≤ 5)

/-- A plain-integer argument lies in `0..hi`; the whole 48-bit signed value is tested (rule R85). -/
def rangeOk (a : Arg) (hi : Int) : Bool := decide (0 ≤ a.toInt ∧ a.toInt ≤ hi)

/-- The command passes every dropping check (rule R84, steps 2 and 4). -/
def Instr.wellFormed : Instr → Bool
  | .nop => true
  | .noteOn note _ => rangeOk note 127
  | .noteOff note => rangeOk note 127
  | .allNotesOff => true
  | .setAlgorithm c n => chanOk c && rangeOk n 31
  | .setOpFreq v o _ => voiceOk v && opOk o
  | .setOpAmp v o _ => voiceOk v && opOk o
  | .setOpModidx v o _ => voiceOk v && opOk o
  | .setOpWave v o w => voiceOk v && opOk o && rangeOk w 3
  | .setEnvelope v o _ _ _ _ => voiceOk v && opOk o
  | .setMasterVol _ => true
  | .setSampleRate _ => true
  | .setPitchBend c _ => chanOk c
  | .setModWheel c _ => chanOk c
  | .setReverb _ => true
  | .setChorus _ => true
  | .setDistortion _ => true
  | .setTplOsc o _ _ _ w => opOk o && rangeOk w 3
  | .setTplEnv o _ _ _ _ => opOk o
  | .setCurChan c => chanOk c
  | .start => true
  | .stop => true
  | .clrOverrun => true

end Sys2Proof
end

