-- ==== Sys2Proof/Decode.lean ====
section
/-! DEFINITION. The command word taken apart (rules R80 to R85, R88) and put together. Decoding is total
on all 2^208 words: 23 opcodes give a command, the other 233 are rejected by name. -/

namespace Sys2Proof

/-- Why a word is no command. -/
inductive DecodeError where
  /-- The opcode is one of 0x17 to 0xFF, reserved (rule R88). -/
  | reservedOpcode (opc : BitVec 8)
deriving DecidableEq, Repr

/-- `OPC = cmd[207:200]` (rule R80). -/
def opcField (w : CommandWord) : BitVec 8 := w.extractLsb' 200 8

/-- `IDX = cmd[199:195]` (rule R80). -/
def idxField (w : CommandWord) : IdxField := w.extractLsb' 195 5

/-- `OPI = cmd[194:192]` (rule R80). -/
def opiField (w : CommandWord) : OpiField := w.extractLsb' 192 3

/-- `A0 = cmd[191:144]` (rule R80). -/
def a0Field (w : CommandWord) : Arg := w.extractLsb' 144 48

/-- `A1 = cmd[143:96]` (rule R80). -/
def a1Field (w : CommandWord) : Arg := w.extractLsb' 96 48

/-- `A2 = cmd[95:48]` (rule R80). -/
def a2Field (w : CommandWord) : Arg := w.extractLsb' 48 48

/-- `A3 = cmd[47:0]` (rule R80). -/
def a3Field (w : CommandWord) : Arg := w.extractLsb' 0 48

/-- The command a word carries (rules R83, R84 step 1, R88). -/
def decode (w : CommandWord) : Except DecodeError Instr :=
  match (opcField w).toNat with
  | 0x00 => .ok .nop
  | 0x01 => .ok (.noteOn (a0Field w) (a1Field w))
  | 0x02 => .ok (.noteOff (a0Field w))
  | 0x03 => .ok .allNotesOff
  | 0x04 => .ok (.setAlgorithm (idxField w) (a0Field w))
  | 0x05 => .ok (.setOpFreq (idxField w) (opiField w) (a0Field w))
  | 0x06 => .ok (.setOpAmp (idxField w) (opiField w) (a0Field w))
  | 0x07 => .ok (.setOpModidx (idxField w) (opiField w) (a0Field w))
  | 0x08 => .ok (.setOpWave (idxField w) (opiField w) (a0Field w))
  | 0x09 => .ok (.setEnvelope (idxField w) (opiField w) (a0Field w) (a1Field w) (a2Field w) (a3Field w))
  | 0x0A => .ok (.setMasterVol (a0Field w))
  | 0x0B => .ok (.setSampleRate (a0Field w))
  | 0x0C => .ok (.setPitchBend (idxField w) (a0Field w))
  | 0x0D => .ok (.setModWheel (idxField w) (a0Field w))
  | 0x0E => .ok (.setReverb (a0Field w))
  | 0x0F => .ok (.setChorus (a0Field w))
  | 0x10 => .ok (.setDistortion (a0Field w))
  | 0x11 => .ok (.setTplOsc (opiField w) (a0Field w) (a1Field w) (a2Field w) (a3Field w))
  | 0x12 => .ok (.setTplEnv (opiField w) (a0Field w) (a1Field w) (a2Field w) (a3Field w))
  | 0x13 => .ok (.setCurChan (idxField w))
  | 0x14 => .ok .start
  | 0x15 => .ok .stop
  | 0x16 => .ok .clrOverrun
  | _ => .error (.reservedOpcode (opcField w))

/-- The word with the given fields (rule R80). -/
def fieldsWord (opc : BitVec 8) (idx : IdxField) (opi : OpiField) (a0 a1 a2 a3 : Arg) : CommandWord :=
  opc ++ (idx ++ (opi ++ (a0 ++ (a1 ++ (a2 ++ a3)))))

/-- The word an assembler writes for a command: zeros in the fields the command ignores (rules R83, R85). -/
def encode : Instr → CommandWord
  | .nop => fieldsWord 0x00 0 0 0 0 0 0
  | .noteOn n v => fieldsWord 0x01 0 0 n v 0 0
  | .noteOff n => fieldsWord 0x02 0 0 n 0 0 0
  | .allNotesOff => fieldsWord 0x03 0 0 0 0 0 0
  | .setAlgorithm c n => fieldsWord 0x04 c 0 n 0 0 0
  | .setOpFreq v o x => fieldsWord 0x05 v o x 0 0 0
  | .setOpAmp v o x => fieldsWord 0x06 v o x 0 0 0
  | .setOpModidx v o x => fieldsWord 0x07 v o x 0 0 0
  | .setOpWave v o x => fieldsWord 0x08 v o x 0 0 0
  | .setEnvelope v o a d su r => fieldsWord 0x09 v o a d su r
  | .setMasterVol x => fieldsWord 0x0A 0 0 x 0 0 0
  | .setSampleRate x => fieldsWord 0x0B 0 0 x 0 0 0
  | .setPitchBend c x => fieldsWord 0x0C c 0 x 0 0 0
  | .setModWheel c x => fieldsWord 0x0D c 0 x 0 0 0
  | .setReverb x => fieldsWord 0x0E 0 0 x 0 0 0
  | .setChorus x => fieldsWord 0x0F 0 0 x 0 0 0
  | .setDistortion x => fieldsWord 0x10 0 0 x 0 0 0
  | .setTplOsc o ra am mi w => fieldsWord 0x11 0 o ra am mi w
  | .setTplEnv o a d su r => fieldsWord 0x12 0 o a d su r
  | .setCurChan c => fieldsWord 0x13 c 0 0 0 0 0
  | .start => fieldsWord 0x14 0 0 0 0 0 0
  | .stop => fieldsWord 0x15 0 0 0 0 0 0
  | .clrOverrun => fieldsWord 0x16 0 0 0 0 0 0

/-- The opcode number of a command in the opcode map (rule R83). -/
def opcodeOf : Instr → Nat
  | .nop => 0x00
  | .noteOn _ _ => 0x01
  | .noteOff _ => 0x02
  | .allNotesOff => 0x03
  | .setAlgorithm _ _ => 0x04
  | .setOpFreq _ _ _ => 0x05
  | .setOpAmp _ _ _ => 0x06
  | .setOpModidx _ _ _ => 0x07
  | .setOpWave _ _ _ => 0x08
  | .setEnvelope _ _ _ _ _ _ => 0x09
  | .setMasterVol _ => 0x0A
  | .setSampleRate _ => 0x0B
  | .setPitchBend _ _ => 0x0C
  | .setModWheel _ _ => 0x0D
  | .setReverb _ => 0x0E
  | .setChorus _ => 0x0F
  | .setDistortion _ => 0x10
  | .setTplOsc _ _ _ _ _ => 0x11
  | .setTplEnv _ _ _ _ _ => 0x12
  | .setCurChan _ => 0x13
  | .start => 0x14
  | .stop => 0x15
  | .clrOverrun => 0x16

/-- The command a table word of `nbits` bits carries: a command is one 208-bit word, numbered as the
table numbers it (rules R12, R80), so the bits are taken as they stand. -/
def decodeTableWord (nbits w : Nat) : Option Instr :=
  match decode (BitVec.ofNat 208 (w % 2 ^ nbits)) with
  | .ok i => some i
  | .error _ => none

end Sys2Proof
end

