-- ==== Sys2Proof/Config.lean ====
section
/-! DEFINITION. What is fixed for one machine: the constants of rules R4 to R9, the shape of the
routing table of rule R120, and the open parameters of rule R5, which stay without a value. -/

namespace Sys2Proof.Config

/-- `ONE = 2^22`, the Q22 integer that stands for 1.0 (rule R6). -/
abbrev one : Int := 4194304

/-- `QMAX = 2^47 - 1`, the largest value of a 48-bit container (rule R9). -/
abbrev qmax : Int := 140737488355327

/-- `TONE = 2^32`, the T32 integer that stands for one second (rule R7). -/
abbrev tone : Int := 4294967296

/-- The largest value of the 64-bit register `ET` (rule R22). -/
abbrev etMax : Int := 18446744073709551615

/-- `TWO_PI_Q`, the modulus of every phase (rule R8). -/
abbrev twoPiQ : Int := 26353589

/-- `ENV_T_MIN`, the floor of attack, decay and release (rule R5; log 8). -/
abbrev envTMin : Int := 4096

/-- `FS_RESET`, `FS_MIN` and `FS_MAX`, hertz (rule R4). -/
abbrev fsReset : Int := 44100

/-- The lowest sample rate (rule R4). -/
abbrev fsMin : Int := 8000

/-- The highest sample rate (rule R4). -/
abbrev fsMax : Int := 192000

/-- `OUT_MIN`, the least output sample (rule R4). -/
abbrev outMin : Int := -8192

/-- `OUT_MAX`, the greatest output sample (rule R4). -/
abbrev outMax : Int := 8191

/-- `AUDIO_SCALE` (rule R5; log 8). -/
abbrev audioScale : Int := 8191

/-- `BATCH_LEN`, frames per batch (rule R5; log 8). -/
abbrev batchLen : Nat := 256

/-- `FIFO_DEPTH`, capacity of the sample FIFO in words (rule R5; log 8). -/
abbrev fifoDepth : Nat := 1024

/-- The length `2^LUT_BITS` of the sine table (rules R5, R210; log 8). -/
abbrev lutLen : Int := 4096

/-- One row of `ALG_ROM`: bit `6*m + t` of `edge` says that operator `m` modulates operator `t`, bit `i`
of `car` that operator `i` is a carrier (rule R120). -/
structure AlgRow where
  edge : BitVec 36
  car : BitVec 6
deriving DecidableEq, Repr

/-- A routing table: 32 rows (rules R4, R120). -/
abbrev AlgRom := Fin 32 → AlgRow

/-- The constants and the curve of the effects stage (rules R190 to R193). They are gathered in one
record so that the stage can be stated and tested for any admitted value of them. -/
structure FxParams where
  /-- `FX_GAIN_MULT`, Q22, not negative (rule R191). -/
  gainMult : Nat
  /-- `CHORUS_FREQ`, Q22 hertz, not negative (rule R192). -/
  chorusFreq : Nat
  /-- `CHORUS_DEPTH`, Q22 (rule R192). -/
  chorusDepth : Int
  /-- `REVERB_GAIN`, Q22, not negative (rule R193, decision D32). -/
  reverbGain : Nat
  /-- `TANH_Q` (rule R191). -/
  tanhQ : Int → Int

/-- OPEN constant `FX_GAIN_MULT`: a free value (rule R191; log 9). -/
opaque fxGainMult : Nat

/-- OPEN constant `CHORUS_FREQ`: a free value (rule R192; log 9). -/
opaque chorusFreq : Nat

/-- OPEN constant `CHORUS_DEPTH`: a free value (rule R192; log 9). -/
opaque chorusDepth : Int

/-- OPEN constant `REVERB_GAIN`: a free value (rule R193; log 9). -/
opaque reverbGain : Nat

/-- The free values from which the OPEN curve `TANH_Q` is made (rule R191; log 10). -/
opaque tanhRaw : Nat → Nat

/-- The half of the curve on non-negative arguments: the running maximum of the free values, capped at
`ONE` and starting at 0. -/
def curveMag (raw : Nat → Nat) : Nat → Nat
  | 0 => 0
  | n + 1 => max (curveMag raw n) (min 4194304 (raw (n + 1)))

/-- The odd curve a sequence of free values gives. Every curve of this form has the five properties of
rule R191, and every curve that has them is of this form, so a free `raw` is a free curve (log 10). -/
def curve (raw : Nat → Nat) (x : Int) : Int :=
  if x < 0 then -(curveMag raw x.natAbs : Int) else (curveMag raw x.natAbs : Int)

/-- The effects stage of this machine: all five parameters open (rule R5). -/
def fx : FxParams :=
  { gainMult := fxGainMult, chorusFreq := chorusFreq, chorusDepth := chorusDepth,
    reverbGain := reverbGain, tanhQ := curve tanhRaw }

end Sys2Proof.Config
end

