-- ==== Sys2Proof/Machine/Arith.lean ====
section
/-! DEFINITION. The arithmetic of rules R10 and R11 on unbounded integers. -/

namespace Sys2Proof.Machine

/-- `rnd(n, d)`: the integer nearest to `n / d`, a tie going away from zero, for `d > 0` (rule R10). -/
def rnd (n d : Int) : Int :=
  if 0 ≤ n then (2 * n + d) / (2 * d) else -((2 * (-n) + d) / (2 * d))

/-- `clamp(v, lo, hi)` (rule R11). -/
def clamp (v lo hi : Int) : Int := if v < lo then lo else if hi < v then hi else v

/-- `ceil(a / b)` for positive integers (rule R11). -/
def ceilDiv (a b : Int) : Int := (a + b - 1) / b

/-- The product of two Q22 values, rounded to Q22 (rule R10). -/
def mulQ (a b : Int) : Int := rnd (a * b) Config.one

/-- `v` with entry `i` replaced by `f` of it. Irreducible, so that no comparison of states unfolds a bank;
read it through `getElem_updAt`. -/
@[irreducible] def updAt {α : Type} {n : Nat} (i : Fin n) (f : α → α) (v : Vector α n) : Vector α n :=
  v.set i (f v[i])

/-- Every entry of `v` replaced by `f` of it. Irreducible, as `updAt`; read it through `getElem_each`. -/
@[irreducible] def each {α : Type} {n : Nat} (f : α → α) (v : Vector α n) : Vector α n :=
  Vector.ofFn fun i => f v[i]

/-- The sum of `f i` over `i = 0, 1, ..., n - 1`. -/
def sumOver (n : Nat) (f : Fin n → Int) : Int := ((List.finRange n).map f).sum

end Sys2Proof.Machine
end

