-- ==== Sys2Proof/Machine/Roms.lean ====
section
/-! DEFINITION. The contents of the three ROMs: `SIN_ROM` (rules R210, R211), `NOTE_ROM` (rule R212) and
the reference routing table `ALG_ROM_REF` (rules R125, R213), with the legality of a routing table
(rules R121, R123, R124). The numbers are those of spec/49_rom_tables.md. -/

namespace Sys2Proof.Machine

open Sys2Proof.Config

/-- Entries 0 to 63 of `SIN_ROM` (rule R210). -/
def sinQuarter0 : List Nat :=
  [0, 6434, 12868, 19302, 25736, 32170, 38603, 45037] ++
  [51471, 57904, 64337, 70770, 77203, 83636, 90069, 96501] ++
  [102933, 109365, 115797, 122228, 128659, 135090, 141521, 147951] ++
  [154381, 160810, 167239, 173668, 180096, 186524, 192951, 199378] ++
  [205805, 212231, 218656, 225081, 231506, 237930, 244353, 250776] ++
  [257198, 263619, 270040, 276461, 282880, 289299, 295718, 302135] ++
  [308552, 314968, 321384, 327798, 334212, 340625, 347038, 353449] ++
  [359860, 366270, 372679, 379087, 385494, 391900, 398306, 404710]

/-- Entries 64 to 127 of `SIN_ROM` (rule R210). -/
def sinQuarter1 : List Nat :=
  [411114, 417516, 423918, 430318, 436718, 443116, 449514, 455910] ++
  [462305, 468700, 475093, 481485, 487876, 494265, 500654, 507041] ++
  [513428, 519813, 526196, 532579, 538960, 545340, 551719, 558096] ++
  [564472, 570847, 577221, 583593, 589963, 596333, 602701, 609067] ++
  [615432, 621796, 628158, 634519, 640878, 647236, 653592, 659946] ++
  [666299, 672651, 679001, 685349, 691696, 698041, 704384, 710726] ++
  [717066, 723405, 729741, 736076, 742410, 748741, 755071, 761399] ++
  [767725, 774049, 780372, 786693, 793011, 799328, 805644, 811957]

/-- Entries 128 to 191 of `SIN_ROM` (rule R210). -/
def sinQuarter2 : List Nat :=
  [818268, 824578, 830885, 837190, 843494, 849796, 856095, 862393] ++
  [868688, 874982, 881273, 887562, 893849, 900135, 906418, 912698] ++
  [918977, 925254, 931528, 937800, 944070, 950338, 956604, 962867] ++
  [969128, 975387, 981643, 987897, 994149, 1000399, 1006646, 1012890] ++
  [1019133, 1025373, 1031610, 1037845, 1044078, 1050308, 1056536, 1062761] ++
  [1068984, 1075204, 1081422, 1087637, 1093850, 1100060, 1106267, 1112472] ++
  [1118674, 1124874, 1131071, 1137265, 1143457, 1149646, 1155832, 1162015] ++
  [1168196, 1174374, 1180550, 1186722, 1192892, 1199059, 1205223, 1211384]

/-- Entries 192 to 255 of `SIN_ROM` (rule R210). -/
def sinQuarter3 : List Nat :=
  [1217542, 1223698, 1229850, 1236000, 1242147, 1248291, 1254432, 1260570] ++
  [1266705, 1272837, 1278966, 1285092, 1291215, 1297335, 1303452, 1309566] ++
  [1315677, 1321784, 1327889, 1333990, 1340089, 1346184, 1352276, 1358365] ++
  [1364450, 1370533, 1376612, 1382688, 1388761, 1394830, 1400896, 1406959] ++
  [1413018, 1419075, 1425128, 1431177, 1437223, 1443266, 1449305, 1455341] ++
  [1461374, 1467403, 1473429, 1479451, 1485469, 1491485, 1497496, 1503505] ++
  [1509509, 1515510, 1521508, 1527502, 1533492, 1539479, 1545462, 1551441] ++
  [1557417, 1563389, 1569358, 1575323, 1581284, 1587241, 1593195, 1599145]

/-- Entries 256 to 319 of `SIN_ROM` (rule R210). -/
def sinQuarter4 : List Nat :=
  [1605091, 1611033, 1616972, 1622906, 1628837, 1634764, 1640688, 1646607] ++
  [1652522, 1658434, 1664342, 1670246, 1676145, 1682041, 1687933, 1693821] ++
  [1699705, 1705585, 1711461, 1717333, 1723201, 1729065, 1734925, 1740781] ++
  [1746632, 1752480, 1758323, 1764162, 1769997, 1775828, 1781655, 1787478] ++
  [1793296, 1799110, 1804920, 1810726, 1816527, 1822324, 1828117, 1833906] ++
  [1839690, 1845470, 1851245, 1857016, 1862783, 1868546, 1874304, 1880057] ++
  [1885807, 1891551, 1897292, 1903028, 1908759, 1914486, 1920208, 1925926] ++
  [1931639, 1937348, 1943052, 1948752, 1954447, 1960138, 1965823, 1971505]

/-- Entries 320 to 383 of `SIN_ROM` (rule R210). -/
def sinQuarter5 : List Nat :=
  [1977181, 1982853, 1988520, 1994183, 1999841, 2005494, 2011143, 2016786] ++
  [2022425, 2028060, 2033689, 2039314, 2044934, 2050549, 2056159, 2061764] ++
  [2067365, 2072961, 2078551, 2084137, 2089718, 2095294, 2100866, 2106432] ++
  [2111993, 2117549, 2123101, 2128647, 2134188, 2139725, 2145256, 2150782] ++
  [2156303, 2161819, 2167330, 2172836, 2178337, 2183833, 2189323, 2194808] ++
  [2200289, 2205764, 2211233, 2216698, 2222157, 2227612, 2233061, 2238504] ++
  [2243943, 2249376, 2254804, 2260226, 2265643, 2271055, 2276462, 2281863] ++
  [2287259, 2292649, 2298034, 2303414, 2308788, 2314157, 2319520, 2324878]

/-- Entries 384 to 447 of `SIN_ROM` (rule R210). -/
def sinQuarter6 : List Nat :=
  [2330230, 2335577, 2340919, 2346255, 2351585, 2356910, 2362229, 2367543] ++
  [2372851, 2378154, 2383451, 2388742, 2394028, 2399308, 2404583, 2409851] ++
  [2415115, 2420372, 2425624, 2430870, 2436110, 2441345, 2446574, 2451797] ++
  [2457014, 2462226, 2467432, 2472632, 2477826, 2483014, 2488197, 2493373] ++
  [2498544, 2503709, 2508868, 2514021, 2519168, 2524309, 2529445, 2534574] ++
  [2539697, 2544815, 2549926, 2555032, 2560131, 2565224, 2570312, 2575393] ++
  [2580468, 2585537, 2590601, 2595658, 2600708, 2605753, 2610792, 2615824] ++
  [2620851, 2625871, 2630885, 2635893, 2640894, 2645890, 2650879, 2655862]

/-- Entries 448 to 511 of `SIN_ROM` (rule R210). -/
def sinQuarter7 : List Nat :=
  [2660838, 2665809, 2670773, 2675731, 2680682, 2685627, 2690566, 2695499] ++
  [2700425, 2705345, 2710259, 2715166, 2720067, 2724961, 2729849, 2734730] ++
  [2739605, 2744474, 2749336, 2754192, 2759041, 2763884, 2768720, 2773550] ++
  [2778373, 2783190, 2788000, 2792803, 2797600, 2802391, 2807175, 2811952] ++
  [2816722, 2821486, 2826244, 2830994, 2835738, 2840476, 2845206, 2849930] ++
  [2854647, 2859358, 2864062, 2868759, 2873449, 2878133, 2882809, 2887479] ++
  [2892143, 2896799, 2901449, 2906091, 2910727, 2915356, 2919979, 2924594] ++
  [2929202, 2933804, 2938398, 2942986, 2947567, 2952141, 2956708, 2961268]

/-- Entries 512 to 575 of `SIN_ROM` (rule R210). -/
def sinQuarter8 : List Nat :=
  [2965821, 2970367, 2974906, 2979438, 2983963, 2988481, 2992992, 2997496] ++
  [3001993, 3006482, 3010965, 3015441, 3019909, 3024371, 3028825, 3033272] ++
  [3037712, 3042145, 3046571, 3050990, 3055401, 3059805, 3064202, 3068592] ++
  [3072975, 3077350, 3081718, 3086079, 3090433, 3094779, 3099118, 3103450] ++
  [3107774, 3112091, 3116401, 3120704, 3124999, 3129287, 3133567, 3137840] ++
  [3142106, 3146364, 3150615, 3154858, 3159094, 3163323, 3167544, 3171758] ++
  [3175964, 3180163, 3184354, 3188538, 3192714, 3196883, 3201044, 3205198] ++
  [3209344, 3213483, 3217614, 3221737, 3225853, 3229962, 3234062, 3238155]

/-- Entries 576 to 639 of `SIN_ROM` (rule R210). -/
def sinQuarter9 : List Nat :=
  [3242241, 3246319, 3250389, 3254451, 3258506, 3262554, 3266593, 3270625] ++
  [3274649, 3278666, 3282675, 3286676, 3290669, 3294654, 3298632, 3302602] ++
  [3306565, 3310519, 3314466, 3318405, 3322336, 3326259, 3330175, 3334082] ++
  [3337982, 3341874, 3345758, 3349634, 3353502, 3357363, 3361215, 3365060] ++
  [3368897, 3372725, 3376546, 3380359, 3384164, 3387961, 3391750, 3395531] ++
  [3399304, 3403069, 3406826, 3410575, 3414316, 3418049, 3421774, 3425490] ++
  [3429199, 3432900, 3436593, 3440277, 3443954, 3447622, 3451282, 3454934] ++
  [3458578, 3462214, 3465842, 3469461, 3473073, 3476676, 3480271, 3483858]

/-- Entries 640 to 703 of `SIN_ROM` (rule R210). -/
def sinQuarter10 : List Nat :=
  [3487436, 3491007, 3494569, 3498123, 3501669, 3505206, 3508735, 3512256] ++
  [3515769, 3519274, 3522770, 3526258, 3529737, 3533209, 3536672, 3540126] ++
  [3543573, 3547011, 3550440, 3553862, 3557275, 3560679, 3564075, 3567463] ++
  [3570842, 3574213, 3577576, 3580930, 3584276, 3587613, 3590942, 3594263] ++
  [3597575, 3600878, 3604173, 3607460, 3610738, 3614007, 3617268, 3620521] ++
  [3623765, 3627000, 3630227, 3633446, 3636656, 3639857, 3643050, 3646234] ++
  [3649409, 3652576, 3655735, 3658885, 3662026, 3665158, 3668282, 3671398] ++
  [3674504, 3677602, 3680692, 3683772, 3686844, 3689908, 3692963, 3696009]

/-- Entries 704 to 767 of `SIN_ROM` (rule R210). -/
def sinQuarter11 : List Nat :=
  [3699046, 3702074, 3705094, 3708106, 3711108, 3714102, 3717087, 3720063] ++
  [3723030, 3725989, 3728939, 3731880, 3734813, 3737736, 3740651, 3743557] ++
  [3746454, 3749343, 3752222, 3755093, 3757955, 3760808, 3763652, 3766487] ++
  [3769314, 3772132, 3774940, 3777740, 3780531, 3783313, 3786086, 3788851] ++
  [3791606, 3794352, 3797090, 3799818, 3802538, 3805249, 3807950, 3810643] ++
  [3813327, 3816002, 3818668, 3821324, 3823972, 3826611, 3829241, 3831862] ++
  [3834474, 3837076, 3839670, 3842255, 3844831, 3847397, 3849955, 3852503] ++
  [3855043, 3857573, 3860095, 3862607, 3865110, 3867604, 3870089, 3872565]

/-- Entries 768 to 831 of `SIN_ROM` (rule R210). -/
def sinQuarter12 : List Nat :=
  [3875032, 3877489, 3879938, 3882377, 3884807, 3887228, 3889640, 3892043] ++
  [3894437, 3896821, 3899197, 3901563, 3903920, 3906267, 3908606, 3910935] ++
  [3913255, 3915566, 3917868, 3920161, 3922444, 3924718, 3926983, 3929238] ++
  [3931485, 3933722, 3935950, 3938168, 3940378, 3942578, 3944768, 3946950] ++
  [3949122, 3951285, 3953439, 3955583, 3957718, 3959843, 3961960, 3964067] ++
  [3966165, 3968253, 3970332, 3972402, 3974462, 3976513, 3978555, 3980587] ++
  [3982610, 3984623, 3986628, 3988622, 3990608, 3992584, 3994550, 3996508] ++
  [3998455, 4000394, 4002323, 4004242, 4006152, 4008053, 4009944, 4011826]

/-- Entries 832 to 895 of `SIN_ROM` (rule R210). -/
def sinQuarter13 : List Nat :=
  [4013699, 4015562, 4017415, 4019259, 4021094, 4022919, 4024735, 4026541] ++
  [4028338, 4030125, 4031903, 4033671, 4035430, 4037179, 4038919, 4040649] ++
  [4042370, 4044081, 4045783, 4047475, 4049158, 4050831, 4052495, 4054149] ++
  [4055793, 4057428, 4059054, 4060670, 4062276, 4063873, 4065460, 4067038] ++
  [4068606, 4070165, 4071713, 4073253, 4074783, 4076303, 4077813, 4079315] ++
  [4080806, 4082288, 4083760, 4085223, 4086676, 4088119, 4089553, 4090977] ++
  [4092391, 4093796, 4095191, 4096577, 4097953, 4099319, 4100676, 4102023] ++
  [4103360, 4104688, 4106006, 4107315, 4108613, 4109902, 4111182, 4112452]

/-- Entries 896 to 959 of `SIN_ROM` (rule R210). -/
def sinQuarter14 : List Nat :=
  [4113712, 4114962, 4116203, 4117434, 4118655, 4119867, 4121069, 4122261] ++
  [4123443, 4124616, 4125779, 4126933, 4128076, 4129210, 4130335, 4131449] ++
  [4132554, 4133649, 4134734, 4135810, 4136876, 4137932, 4138979, 4140015] ++
  [4141042, 4142060, 4143067, 4144065, 4145053, 4146031, 4146999, 4147958] ++
  [4148907, 4149846, 4150776, 4151695, 4152605, 4153505, 4154396, 4155276] ++
  [4156147, 4157008, 4157859, 4158701, 4159532, 4160354, 4161166, 4161968] ++
  [4162761, 4163544, 4164316, 4165080, 4165833, 4166576, 4167310, 4168034] ++
  [4168748, 4169452, 4170147, 4170831, 4171506, 4172171, 4172826, 4173472]

/-- Entries 960 to 1023 of `SIN_ROM` (rule R210). -/
def sinQuarter15 : List Nat :=
  [4174107, 4174733, 4175349, 4175955, 4176551, 4177138, 4177714, 4178281] ++
  [4178838, 4179385, 4179922, 4180450, 4180967, 4181475, 4181973, 4182461] ++
  [4182939, 4183408, 4183866, 4184315, 4184754, 4185183, 4185602, 4186011] ++
  [4186411, 4186800, 4187180, 4187550, 4187910, 4188260, 4188601, 4188931] ++
  [4189252, 4189563, 4189863, 4190155, 4190436, 4190707, 4190969, 4191220] ++
  [4191462, 4191694, 4191916, 4192128, 4192330, 4192523, 4192705, 4192878] ++
  [4193041, 4193194, 4193337, 4193470, 4193593, 4193707, 4193811, 4193904] ++
  [4193988, 4194062, 4194126, 4194181, 4194225, 4194260, 4194284, 4194299]

/-- The first quarter of `SIN_ROM`, entries 0 to 1024 (rule R210). -/
def sinQuarter : List Nat :=
  sinQuarter0 ++ (sinQuarter1 ++ (sinQuarter2 ++ (sinQuarter3 ++ (sinQuarter4 ++ (sinQuarter5 ++
  (sinQuarter6 ++ (sinQuarter7 ++ (sinQuarter8 ++ (sinQuarter9 ++ (sinQuarter10 ++ (sinQuarter11
  ++ (sinQuarter12 ++ (sinQuarter13 ++ (sinQuarter14 ++ (sinQuarter15 ++ [4194304])))))))))))))))

/-- `SIN_ROM[k]` for `k` in 0..4095, from the quarter by the symmetries of rule R211. Irreducible, so that
no comparison of states unfolds the table. -/
@[irreducible] def sinRom (k : Nat) : Int :=
  if k ≤ 1024 then (sinQuarter.getD k 0 : Int)
  else if k ≤ 2048 then (sinQuarter.getD (2048 - k) 0 : Int)
  else if k ≤ 3072 then -(sinQuarter.getD (k - 2048) 0 : Int)
  else -(sinQuarter.getD (4096 - k) 0 : Int)

/-- Entries 0 to 31 of `NOTE_ROM` (rule R212). -/
def noteTable0 : List Nat :=
  [34291786, 36330882, 38491228, 40780036] ++
  [43204943, 45774043, 48495909, 51379626] ++
  [54434817, 57671680, 61101017, 64734272] ++
  [68583572, 72661764, 76982457, 81560072] ++
  [86409886, 91548086, 96991818, 102759252] ++
  [108869635, 115343360, 122202033, 129468544] ++
  [137167144, 145323527, 153964914, 163120144] ++
  [172819773, 183096171, 193983636, 205518503]

/-- Entries 32 to 63 of `NOTE_ROM` (rule R212). -/
def noteTable1 : List Nat :=
  [217739269, 230686720, 244404066, 258937088] ++
  [274334289, 290647054, 307929828, 326240288] ++
  [345639545, 366192342, 387967272, 411037006] ++
  [435478539, 461373440, 488808132, 517874176] ++
  [548668578, 581294109, 615859655, 652480576] ++
  [691279090, 732384684, 775934544, 822074013] ++
  [870957077, 922746880, 977616265, 1035748353] ++
  [1097337155, 1162588218, 1231719311, 1304961152]

/-- Entries 64 to 95 of `NOTE_ROM` (rule R212). -/
def noteTable2 : List Nat :=
  [1382558180, 1464769368, 1551869087, 1644148025] ++
  [1741914154, 1845493760, 1955232530, 2071496706] ++
  [2194674310, 2325176436, 2463438621, 2609922305] ++
  [2765116361, 2929538736, 3103738174, 3288296050] ++
  [3483828309, 3690987520, 3910465059, 4142993412] ++
  [4389348620, 4650352871, 4926877243, 5219844609] ++
  [5530232722, 5859077472, 6207476349, 6576592100] ++
  [6967656617, 7381975040, 7820930118, 8285986824]

/-- Entries 96 to 127 of `NOTE_ROM` (rule R212). -/
def noteTable3 : List Nat :=
  [8778697240, 9300705743, 9853754486, 10439689219] ++
  [11060465444, 11718154944, 12414952697, 13153184201] ++
  [13935313234, 14763950080, 15641860237, 16571973648] ++
  [17557394481, 18601411485, 19707508972, 20879378437] ++
  [22120930888, 23436309888, 24829905395, 26306368402] ++
  [27870626468, 29527900160, 31283720473, 33143947296] ++
  [35114788961, 37202822971, 39415017944, 41758756875] ++
  [44241861775, 46872619776, 49659810789, 52612736804]

/-- `NOTE_ROM`: note number to Q22 hertz (rules R181, R212; log 8). -/
def noteRom (n : Fin 128) : Int :=
  ((noteTable0 ++ (noteTable1 ++ (noteTable2 ++ noteTable3))).getD n.val 0 : Nat)

/-- A routing row from its 42-bit image `CAR << 36 | EDGE` (rule R213). -/
def algRowOfImage (w : BitVec 42) : AlgRow :=
  { edge := w.extractLsb' 0 36, car := w.extractLsb' 36 6 }

/-- The images of the 32 rows of `ALG_ROM_REF` (rule R213). -/
def algImages : List (BitVec 42) :=
  [0x05408100040, 0x05408100040, 0x09408002040, 0x09408002040, 0x15400100040, 0x15400100040, 0x05404100040, 0x05404100040] ++
  [0x05404100040, 0x09208002040, 0x09208002040, 0x05104100040, 0x05104100040, 0x05208100040, 0x05208100040, 0x01401101040] ++
  [0x01401101040, 0x01408041040, 0x19600002040, 0x0B208003000, 0x1B600003000, 0x1D700000040, 0x01041041040, 0x01041041040] ++
  [0x1F600000000, 0x0B208002000, 0x0B208002000, 0x25008100040, 0x17400100000, 0x01041041040, 0x01041041040, 0x3F000000000]

/-- `ALG_ROM_REF`, the routing table this machine holds (rules R5, R125; log 6). -/
def algRom : AlgRom := fun a => algRowOfImage (algImages.getD a.val 0)

/-- Operator `m` modulates operator `t` in the row (rule R120). -/
def modulates (row : AlgRow) (m t : Fin 6) : Bool := row.edge.getLsbD (6 * m.val + t.val)

/-- Operator `i` is a carrier of the row (rule R120). -/
def isCarrier (row : AlgRow) (i : Fin 6) : Bool := row.car.getLsbD i.val

/-- Some chain of `k` edges of the row ends at operator `t`. -/
def hasChain (row : AlgRow) : Nat → Fin 6 → Bool
  | 0, _ => true
  | k + 1, t => (List.finRange 6).any fun m => modulates row m t && hasChain row k m

/-- The row's graph has no cycle (rule R121): no chain of six edges, for such a chain would visit one of
the six operators twice. -/
def acyclic (row : AlgRow) : Bool := (List.finRange 6).all fun t => !hasChain row 6 t

/-- The row rules R124 fixes for indices 22, 23, 29 and 30: operators 1..5 into carrier 0. -/
def allIntoOneRow : AlgRow := { edge := 0x041041040, car := 0x01 }

/-- The row rule R123 fixes for index 31: six carriers, no edge. -/
def allCarriersRow : AlgRow := { edge := 0x000000000, car := 0x3F }

/-- The table is a configuration of this hardware (rules R121, R123, R124; spec/93, I2): every row is
acyclic and has a carrier, and the five pinned rows are as the source fixes them. -/
def legalAlgRom (rom : AlgRom) : Bool :=
  ((List.finRange 32).all fun a => acyclic (rom a) && decide ((rom a).car ≠ 0)) &&
    decide (rom 22 = allIntoOneRow ∧ rom 23 = allIntoOneRow ∧ rom 29 = allIntoOneRow ∧
      rom 30 = allIntoOneRow ∧ rom 31 = allCarriersRow)

end Sys2Proof.Machine
end

