-- ==== Sys2Proof/Machine/Wave.lean ====
section
/-! DEFINITION. Functions of plain numbers that both the reset state and the datapath use: the waveform
mapping (rule R102), the phase increment (rule R182), the envelope time step (rule R184) and the chorus
factor (rule R192). -/

namespace Sys2Proof.Machine

open Sys2Proof.Config

/-- `WAVE_Q(wave, pe)` for an effective phase `0 ≤ pe < TWO_PI_Q` (rule R102). -/
def waveQ (wave : Waveform) (pe : Int) : Int :=
  match wave with
  | .sine => sinRom (pe * lutLen / twoPiQ).toNat
  | .sawtooth => rnd (2 * pe * one) twoPiQ - one
  | .square => if 2 * pe < twoPiQ then one else -one
  | .triangle =>
    if 2 * pe < twoPiQ then rnd (4 * pe * one) twoPiQ - one
    else 3 * one - rnd (4 * pe * one) twoPiQ

/-- `pinc(F, fs)`: the phase increment of a Q22 frequency at an integer sample rate (rule R182). -/
def pinc (freq fs : Int) : Int := rnd (twoPiQ * freq) (fs * one)

/-- `TSTEP` at the sample rate `fs` (rule R184). -/
def tstepOf (fs : Int) : Int := ceilDiv tone fs

/-- `ChorusLfo(fs)` for given effect parameters (rule R192). -/
def chorusLfoWith (p : FxParams) (fs : Int) : Int := waveQ .sine (pinc p.chorusFreq fs % twoPiQ)

/-- `ChorusLfo(fs)` of this machine (rule R192; log 9). Irreducible, as `sinRom`. -/
@[irreducible] def chorusLfoOf (fs : Int) : Int := chorusLfoWith Config.fx fs

end Sys2Proof.Machine
end

