-- ==== Sys2Proof/Machine/State.lean ====
section
/-! DEFINITION. Everything the spec gives the machine to remember (spec/10_state.md) as plain data, the
reasons a step can stop, and the state after `RESET` (rule R240). Registers hold the integers the rules
compute with; their legal ranges are the invariant of Safety.lean (log 11). -/

namespace Sys2Proof.Machine

open Sys2Proof.Config

/-- An event presented to the machine by one of its agents (rules R14, R91, R235). -/
inductive Event where
  /-- The host presents a command word on the command port. -/
  | command (w : CommandWord)
  /-- One pulse of the sample strobe. -/
  | tick
  /-- The sink requests a word on the stream port. -/
  | pop
  /-- One pulse on the reset input. -/
  | reset
deriving DecidableEq, Repr

/-- The sixteen registers of one operator (rules R21, R22), under the spec's names. -/
structure Op where
  freq : Int
  amp : Int
  modidx : Int
  wave : Waveform
  atk : Int
  dcy : Int
  sus : Int
  rel : Int
  pb : Int
  mw : Int
  vel : Int
  es : EnvState
  el : Int
  et : Int
  phase : Int
  pinc : Int
deriving DecidableEq, Repr

/-- The registers of one voice and its six operators (rules R20, R30). -/
structure Voice where
  active : Bool
  note : Int
  vel : Int
  chan : Fin 8
  ops : Vector Op 6
deriving DecidableEq, Repr

/-- The registers of one channel (rule R33). -/
structure Channel where
  alg : Fin 32
  pb : Int
  mw : Int
deriving DecidableEq, Repr

/-- One row of the template (rule R36). -/
structure TplRow where
  ratio : Int
  amp : Int
  modidx : Int
  wave : Waveform
  atk : Int
  dcy : Int
  sus : Int
  rel : Int
deriving DecidableEq, Repr

/-- The whole state: the registers of rules R20 to R40, the sample FIFO of rule R47, and two fields of
the model's own that stand for the far side of the ports: `pending`, the events presented and not yet
taken, in the one total order of rule R67 (log 1), and `delivered`, the words the sink has received
since the last reset (log 4). -/
structure State where
  voices : Vector Voice 16
  chans : Vector Channel 8
  tpl : Vector TplRow 6
  fs : Int
  tstep : Int
  mvol : Int
  reverb : Int
  chorus : Int
  dist : Int
  chorusLfo : Int
  curChan : Fin 8
  run : Bool
  batchRem : Nat
  overrun : Bool
  fifo : List StreamWord
  pending : List Event
  delivered : List StreamWord
deriving DecidableEq, Repr

/-- Reasons a step could stop with a fault. There is none: no command, `TICK`, `POP` or `RESET` has a
fault outcome (rules R15, R220; log 14), so the type is closed and empty. Nobody raises one; that is exact. -/
inductive Fault where
deriving DecidableEq, Repr

/-- Reasons a step could be refused. -/
inductive Refusal where
  /-- An instruction whose meaning has not been written. Raised by no arm of `exec` now; where it is
  raised it is safe, since the model stops where the hardware goes on. -/
  | notModelled (mnemonic : String)
deriving DecidableEq, Repr

/-- An operator after `RESET` (rule R240). -/
def Op.reset : Op :=
  { freq := 0, amp := 0, modidx := 0, wave := .sine, atk := envTMin, dcy := envTMin, sus := 0,
    rel := envTMin, pb := one, mw := 0, vel := 0, es := .off, el := 0, et := 0, phase := 0, pinc := 0 }

/-- A voice after `RESET` (rule R240). -/
def Voice.reset : Voice :=
  { active := false, note := -1, vel := 0, chan := 0, ops := Vector.replicate 6 Op.reset }

/-- A channel after `RESET` (rule R240). -/
def Channel.reset : Channel := { alg := 0, pb := one, mw := 0 }

/-- Template row `i` after `RESET`; row 0 has the amplitude 0.9 (rules R36, R240). -/
def TplRow.reset (i : Fin 6) : TplRow :=
  { ratio := one, amp := if i = 0 then 3774874 else 0, modidx := one, wave := .sine,
    atk := 32768, dcy := 524288, sus := 2097152, rel := 1048576 }

/-- The machine right after reset, with no event presented (rule R240; log 18). -/
def State.reset : State :=
  { voices := Vector.replicate 16 Voice.reset, chans := Vector.replicate 8 Channel.reset,
    tpl := Vector.ofFn TplRow.reset, fs := fsReset, tstep := 97392, mvol := one, reverb := 0,
    chorus := 0, dist := 0, chorusLfo := chorusLfoOf fsReset, curChan := 0, run := false,
    batchRem := 0, overrun := false, fifo := [], pending := [], delivered := [] }

end Sys2Proof.Machine
end

