-- ==== Sys2Proof/Machine/Ops.lean ====
section
/-! DEFINITION. The named updates of the registers, and the whole-machine events that are not commands
or ticks: `POP` and `RESET`. The hardware has no exceptions (rules R220, R227), so there is no operation
that takes one and none that returns from one. -/

namespace Sys2Proof.Machine

/-- Voice `v` replaced by `f` of it. -/
def State.updVoice (s : State) (v : Fin 16) (f : Voice → Voice) : State :=
  { s with voices := updAt v f s.voices }

/-- Every voice replaced by `f` of it. -/
def State.eachVoice (s : State) (f : Voice → Voice) : State :=
  { s with voices := each f s.voices }

/-- The registers of operator `i` of voice `v` replaced by `f` of them. -/
def State.updOp (s : State) (v : Fin 16) (i : Fin 6) (f : Op → Op) : State :=
  s.updVoice v fun vc => { vc with ops := updAt i f vc.ops }

/-- The registers of channel `c` replaced by `f` of them. -/
def State.updChan (s : State) (c : Fin 8) (f : Channel → Channel) : State :=
  { s with chans := updAt c f s.chans }

/-- Template row `i` replaced by `f` of it. -/
def State.updTpl (s : State) (i : Fin 6) (f : TplRow → TplRow) : State :=
  { s with tpl := updAt i f s.tpl }

/-- The registers of every operator of a voice replaced by `f` of them. -/
def Voice.eachOp (f : Op → Op) (vc : Voice) : Voice := { vc with ops := each f vc.ops }

/-- `ReleaseVoice`: the voice becomes free; every other register of it stays (rule R135). -/
def releaseVoice (vc : Voice) : Voice := { vc with active := false, note := -1 }

/-- `Release`: every operator of the voice enters RELEASE at time 0, whatever its state was, and keeps
its level (rule R117). -/
def releaseOps (vc : Voice) : Voice := vc.eachOp fun o => { o with es := .release, et := 0 }

/-- `FifoPush`: a frame enters the FIFO whole, left word first, or is lost and noted (rules R199, R200). -/
def fifoPush (left right : Int) (s : State) : State :=
  if s.fifo.length + 2 ≤ Config.fifoDepth then
    { s with fifo := s.fifo ++ [BitVec.ofInt 16 left, BitVec.ofInt 16 right] }
  else { s with overrun := true }

/-- `POP`: the word at the head of the FIFO goes to the sink (rule R202). On an empty FIFO there is no
word and nothing changes (rule R203); `nextEvent` does not take a `POP` then. -/
def pop (s : State) : State :=
  match s.fifo with
  | [] => s
  | w :: rest => { s with fifo := rest, delivered := s.delivered ++ [w] }

/-- `RESET`: every register takes its reset value (rule R240); the events still to come are not the
machine's and stay (log 5). -/
def resetMachine (s : State) : State := { State.reset with pending := s.pending }

end Sys2Proof.Machine
end

