-- ==== Sys2Proof/Machine/Operands.lean ====
section
/-! DEFINITION. How a command reads its fields: the index and enumeration checks, which drop the command
(rules R61, R84 steps 2 and 4, R150), and the clamps into a register's legal range (rule R84 step 5). An
argument is read as a signed 48-bit integer (rule R82). -/

namespace Sys2Proof.Machine

open Sys2Proof.Config

/-- The voice an index field names, if any (rule R61). -/
def voiceIdx (idx : IdxField) : Option (Fin 16) :=
  if h : idx.toNat ≤ 15 then some ⟨idx.toNat, by omega⟩ else none

/-- The channel an index field names, if any (rule R61). -/
def chanIdx (idx : IdxField) : Option (Fin 8) :=
  if h : idx.toNat ≤ 7 then some ⟨idx.toNat, by omega⟩ else none

/-- The operator or template row an operator field names, if any (rule R61). -/
def opIdx (opi : OpiField) : Option (Fin 6) :=
  if h : opi.toNat ≤ 5 then some ⟨opi.toNat, by omega⟩ else none

/-- The note number an argument carries, if it is one (rule R61). -/
def noteNum (a : Arg) : Option (Fin 128) :=
  if h : 0 ≤ a.toInt ∧ a.toInt ≤ 127 then some ⟨a.toInt.toNat, by omega⟩ else none

/-- The algorithm index an argument carries, if it is one (rule R61). -/
def algIdx (a : Arg) : Option (Fin 32) :=
  if h : 0 ≤ a.toInt ∧ a.toInt ≤ 31 then some ⟨a.toInt.toNat, by omega⟩ else none

/-- The waveform an argument's code names, if any (rules R21, R155). -/
def waveArg (a : Arg) : Option Waveform :=
  if a.toInt = 0 then some .sine
  else if a.toInt = 1 then some .sawtooth
  else if a.toInt = 2 then some .square
  else if a.toInt = 3 then some .triangle
  else none

/-- An argument clamped into `[0, ONE]` (rules R150, R170). -/
def unitArg (a : Arg) : Int := clamp a.toInt 0 one

/-- An argument clamped into `[0, QMAX]` (rules R152, R161, R166). -/
def posArg (a : Arg) : Int := clamp a.toInt 0 qmax

/-- A time clamped to the floor `ENV_T_MIN` (rules R156, R167). -/
def timeArg (a : Arg) : Int := max a.toInt envTMin

/-- A sample rate clamped into `[8000, 192000]` (rule R160). -/
def rateArg (a : Arg) : Int := clamp a.toInt fsMin fsMax

/-- A modulation index: any 48-bit signed value (rule R154). -/
def signedArg (a : Arg) : Int := a.toInt

/-- `f` applied to the operator two index fields name; nothing if either is out of range (rules R61, R150; log 19). -/
def withOp (idx : IdxField) (opi : OpiField) (f : Op → Op) (s : State) : State :=
  match voiceIdx idx, opIdx opi with
  | some v, some i => s.updOp v i f
  | _, _ => s

end Sys2Proof.Machine
end

