-- ==== Sys2Proof/Machine/Control.lean ====
section
/-! DEFINITION. The register setters (spec/45_control_commands.md). A command that fails a check leaves
the state as it was (rule R150). -/

namespace Sys2Proof.Machine

open Sys2Proof.Config

/-- `NOP` (rule R169). -/
def execNop (s : State) : Host.Outcome State Fault Refusal := .next s

/-- `SET_ALGORITHM` (rule R151). -/
def execSetAlgorithm (chan : IdxField) (index : Arg) (s : State) : Host.Outcome State Fault Refusal :=
  .next (match chanIdx chan, algIdx index with
    | some c, some n => s.updChan c fun ch => { ch with alg := n }
    | _, _ => s)

/-- `SET_OP_FREQ` (rule R152). -/
def execSetOpFreq (voice : IdxField) (op : OpiField) (hz : Arg) (s : State) :
    Host.Outcome State Fault Refusal :=
  .next (withOp voice op (fun o => { o with freq := posArg hz, pinc := pinc (posArg hz) s.fs }) s)

/-- `SET_OP_AMP` (rule R153). -/
def execSetOpAmp (voice : IdxField) (op : OpiField) (amp : Arg) (s : State) :
    Host.Outcome State Fault Refusal :=
  .next (withOp voice op (fun o => { o with amp := unitArg amp }) s)

/-- `SET_OP_MODIDX` (rule R154). -/
def execSetOpModidx (voice : IdxField) (op : OpiField) (mi : Arg) (s : State) :
    Host.Outcome State Fault Refusal :=
  .next (withOp voice op (fun o => { o with modidx := signedArg mi }) s)

/-- `SET_OP_WAVE` (rule R155). -/
def execSetOpWave (voice : IdxField) (op : OpiField) (wave : Arg) (s : State) :
    Host.Outcome State Fault Refusal :=
  .next (match waveArg wave with
    | some w => withOp voice op (fun o => { o with wave := w }) s
    | none => s)

/-- `SET_ENVELOPE` (rule R156). -/
def execSetEnvelope (voice : IdxField) (op : OpiField) (a d su r : Arg) (s : State) :
    Host.Outcome State Fault Refusal :=
  .next (withOp voice op
    (fun o => { o with atk := timeArg a, dcy := timeArg d, sus := unitArg su, rel := timeArg r }) s)

/-- `SET_MASTER_VOL` (rule R157). -/
def execSetMasterVol (vol : Arg) (s : State) : Host.Outcome State Fault Refusal :=
  .next { s with mvol := unitArg vol }

/-- The state with sample rate `fs` and every register derived from it recomputed (rule R160). -/
def setRate (fs : Int) (s : State) : State :=
  { s.eachVoice (Voice.eachOp fun o => { o with pinc := pinc o.freq fs }) with
    fs := fs, tstep := tstepOf fs, chorusLfo := chorusLfoOf fs }

/-- `SET_SAMPLE_RATE` (rule R160). -/
def execSetSampleRate (hz : Arg) (s : State) : Host.Outcome State Fault Refusal :=
  .next (setRate (rateArg hz) s)

/-- `f` applied to every operator of every active voice on channel `c` (rules R161, R162). -/
def broadcast (c : Fin 8) (f : Op → Op) (s : State) : State :=
  s.eachVoice fun vc => if vc.active && decide (vc.chan = c) then vc.eachOp f else vc

/-- `SET_PITCH_BEND` (rule R161). -/
def execSetPitchBend (chan : IdxField) (mult : Arg) (s : State) : Host.Outcome State Fault Refusal :=
  .next (match chanIdx chan with
    | some c =>
      broadcast c (fun o => { o with pb := posArg mult })
        (s.updChan c fun ch => { ch with pb := posArg mult })
    | none => s)

/-- `SET_MOD_WHEEL` (rule R162). -/
def execSetModWheel (chan : IdxField) (value : Arg) (s : State) : Host.Outcome State Fault Refusal :=
  .next (match chanIdx chan with
    | some c =>
      broadcast c (fun o => { o with mw := unitArg value })
        (s.updChan c fun ch => { ch with mw := unitArg value })
    | none => s)

/-- `SET_REVERB` (rule R163). -/
def execSetReverb (amount : Arg) (s : State) : Host.Outcome State Fault Refusal :=
  .next { s with reverb := unitArg amount }

/-- `SET_CHORUS` (rule R164). -/
def execSetChorus (amount : Arg) (s : State) : Host.Outcome State Fault Refusal :=
  .next { s with chorus := unitArg amount }

/-- `SET_DISTORTION` (rule R165). -/
def execSetDistortion (amount : Arg) (s : State) : Host.Outcome State Fault Refusal :=
  .next { s with dist := unitArg amount }

/-- `SET_TPL_OSC` (rule R166). -/
def execSetTplOsc (op : OpiField) (ratio amp mi wave : Arg) (s : State) :
    Host.Outcome State Fault Refusal :=
  .next (match opIdx op, waveArg wave with
    | some i, some w =>
      s.updTpl i fun t =>
        { t with ratio := posArg ratio, amp := unitArg amp, modidx := signedArg mi, wave := w }
    | _, _ => s)

/-- `SET_TPL_ENV` (rule R167). -/
def execSetTplEnv (op : OpiField) (a d su r : Arg) (s : State) : Host.Outcome State Fault Refusal :=
  .next (match opIdx op with
    | some i =>
      s.updTpl i fun t =>
        { t with atk := timeArg a, dcy := timeArg d, sus := unitArg su, rel := timeArg r }
    | none => s)

/-- `SET_CUR_CHAN` (rule R168). -/
def execSetCurChan (chan : IdxField) (s : State) : Host.Outcome State Fault Refusal :=
  .next (match chanIdx chan with
    | some c => { s with curChan := c }
    | none => s)

end Sys2Proof.Machine
end

