-- ==== Sys2Proof/Machine/Notes.lean ====
section
/-! DEFINITION. The note commands and the voice allocator (spec/43_voice_allocator.md). -/

namespace Sys2Proof.Machine

open Sys2Proof.Config

/-- `FindFree`: the lowest index of an inactive voice (rule R130). -/
def findFree (s : State) : Option (Fin 16) :=
  (List.finRange 16).find? fun v => !s.voices[v].active

/-- The frequency of template row `i` for a note (rules R131, R181). -/
def noteFreq (s : State) (n : Fin 128) (i : Fin 6) : Int :=
  min (mulQ (noteRom n) s.tpl[i].ratio) qmax

/-- The registers `NOTE_ON` gives operator `i` (rule R131). -/
def startOp (s : State) (n : Fin 128) (vel : Int) (i : Fin 6) : Op :=
  { freq := noteFreq s n i, pinc := pinc (noteFreq s n i) s.fs,
    amp := s.tpl[i].amp, modidx := s.tpl[i].modidx, wave := s.tpl[i].wave,
    atk := s.tpl[i].atk, dcy := s.tpl[i].dcy, sus := s.tpl[i].sus, rel := s.tpl[i].rel,
    es := .attack, et := 0, el := 0, phase := 0,
    pb := s.chans[s.curChan].pb, mw := s.chans[s.curChan].mw, vel := vel }

/-- The voice `NOTE_ON` builds (rule R131). -/
def startVoice (s : State) (n : Fin 128) (vel : Int) : Voice :=
  { active := true, note := n.val, vel := vel, chan := s.curChan, ops := Vector.ofFn (startOp s n vel) }

/-- `NOTE_ON` with a legal note: the lowest free voice, or voice 0 released and stolen (rules R131, R132). -/
def noteOn (n : Fin 128) (vel : Int) (s : State) : State :=
  match findFree s with
  | some v => s.updVoice v fun _ => startVoice s n vel
  | none => (s.updVoice 0 releaseVoice).updVoice 0 fun _ => startVoice s n vel

/-- Every active voice that satisfies `p` starts its release (rules R133, R134). -/
def releaseWhere (p : Voice → Bool) (s : State) : State :=
  s.eachVoice fun vc => if vc.active && p vc then releaseOps vc else vc

/-- `NOTE_ON` (rule R131). -/
def execNoteOn (note vel : Arg) (s : State) : Host.Outcome State Fault Refusal :=
  .next (match noteNum note with
    | some n => noteOn n (unitArg vel) s
    | none => s)

/-- `NOTE_OFF` (rule R133). -/
def execNoteOff (note : Arg) (s : State) : Host.Outcome State Fault Refusal :=
  .next (match noteNum note with
    | some n => releaseWhere (fun vc => decide (vc.note = n.val)) s
    | none => s)

/-- `ALL_NOTES_OFF` (rule R134). -/
def execAllNotesOff (s : State) : Host.Outcome State Fault Refusal :=
  .next (releaseWhere (fun _ => true) s)

end Sys2Proof.Machine
end

