-- ==== Sys2Proof/Machine/Transport.lean ====
section
/-! DEFINITION. The stream commands (spec/48_stream_interface.md). -/

namespace Sys2Proof.Machine

/-- `START` (rule R197). -/
def execStart (s : State) : Host.Outcome State Fault Refusal := .next { s with run := true }

/-- `STOP` (rule R198): a batch in progress runs on. -/
def execStop (s : State) : Host.Outcome State Fault Refusal := .next { s with run := false }

/-- `CLR_OVERRUN` (rule R201). -/
def execClrOverrun (s : State) : Host.Outcome State Fault Refusal := .next { s with overrun := false }

end Sys2Proof.Machine
end

