-- ==== Sys2Proof/Machine/Dispatch.lean ====
section
/-! DEFINITION. One arm per command: the call of its meaning. -/

namespace Sys2Proof.Machine

/-- What one command does to the state (rules R83, R84). -/
def exec (i : Instr) (s : State) : Host.Outcome State Fault Refusal :=
  match i with
  | .nop => Sys2Proof.Machine.execNop s
  | .noteOn note vel => Sys2Proof.Machine.execNoteOn note vel s
  | .noteOff note => Sys2Proof.Machine.execNoteOff note s
  | .allNotesOff => Sys2Proof.Machine.execAllNotesOff s
  | .setAlgorithm chan index => Sys2Proof.Machine.execSetAlgorithm chan index s
  | .setOpFreq voice op hz => Sys2Proof.Machine.execSetOpFreq voice op hz s
  | .setOpAmp voice op amp => Sys2Proof.Machine.execSetOpAmp voice op amp s
  | .setOpModidx voice op mi => Sys2Proof.Machine.execSetOpModidx voice op mi s
  | .setOpWave voice op wave => Sys2Proof.Machine.execSetOpWave voice op wave s
  | .setEnvelope voice op a d su r => Sys2Proof.Machine.execSetEnvelope voice op a d su r s
  | .setMasterVol vol => Sys2Proof.Machine.execSetMasterVol vol s
  | .setSampleRate hz => Sys2Proof.Machine.execSetSampleRate hz s
  | .setPitchBend chan mult => Sys2Proof.Machine.execSetPitchBend chan mult s
  | .setModWheel chan value => Sys2Proof.Machine.execSetModWheel chan value s
  | .setReverb amount => Sys2Proof.Machine.execSetReverb amount s
  | .setChorus amount => Sys2Proof.Machine.execSetChorus amount s
  | .setDistortion amount => Sys2Proof.Machine.execSetDistortion amount s
  | .setTplOsc op ratio amp mi wave => Sys2Proof.Machine.execSetTplOsc op ratio amp mi wave s
  | .setTplEnv op a d su r => Sys2Proof.Machine.execSetTplEnv op a d su r s
  | .setCurChan chan => Sys2Proof.Machine.execSetCurChan chan s
  | .start => Sys2Proof.Machine.execStart s
  | .stop => Sys2Proof.Machine.execStop s
  | .clrOverrun => Sys2Proof.Machine.execClrOverrun s

end Sys2Proof.Machine
end

