-- ==== Sys2Proof/Machine/Effects.lean ====
section
/-! DEFINITION. The effects stage (spec/47_effects.md), for any effect parameters. -/

namespace Sys2Proof.Machine

open Sys2Proof.Config

/-- Distortion, if its amount is above 0 (rules R190, R191). -/
def fxDistort (p : FxParams) (dist x : Int) : Int :=
  if 0 < dist then p.tanhQ (mulQ x (one + mulQ dist p.gainMult)) else x

/-- Chorus, if its amount is above 0: a fixed gain (rules R190, R192). -/
def fxChorus (p : FxParams) (chorus lfo x : Int) : Int :=
  if 0 < chorus then mulQ x (one + mulQ (mulQ lfo chorus) p.chorusDepth) else x

/-- Reverb, if its amount is above 0: a fixed gain (rules R190, R193). -/
def fxReverb (p : FxParams) (reverb x : Int) : Int :=
  if 0 < reverb then mulQ x (one + mulQ reverb p.reverbGain) else x

/-- `FX`: distortion, then chorus, then reverb (rule R190). -/
def fxWith (p : FxParams) (s : State) (x : Int) : Int :=
  fxReverb p s.reverb (fxChorus p s.chorus s.chorusLfo (fxDistort p s.dist x))

end Sys2Proof.Machine
end

