-- ==== Sys2Proof/Machine/Envelope.lean ====
section
/-! DEFINITION. The envelope state machine of one operator (spec/41_envelope.md). A Q22 time `x` is the
T32 time `x * 1024` (rule R7). -/

namespace Sys2Proof.Machine

open Sys2Proof.Config

/-- ATTACK, after time has advanced (rule R112). -/
def envAttack (o : Op) : Op :=
  if o.atk * 1024 ≤ o.et then { o with el := one, es := .decay, et := 0 }
  else { o with el := rnd (o.et * one) (o.atk * 1024) }

/-- DECAY, after time has advanced (rule R113). -/
def envDecay (o : Op) : Op :=
  if o.sus = one ∨ o.dcy * 1024 ≤ o.et then { o with el := o.sus, es := .sustain }
  else { o with el := one - rnd (o.et * (one - o.sus)) (o.dcy * 1024) }

/-- SUSTAIN (rule R114). -/
def envSustain (o : Op) : Op := { o with el := o.sus }

/-- RELEASE, after time has advanced (rule R115). -/
def envRelease (o : Op) : Op :=
  if o.sus = 0 ∨ o.rel * 1024 ≤ o.et then { o with el := 0, es := .off }
  else { o with el := rnd (o.sus * (o.rel * 1024 - o.et)) (o.rel * 1024) }

/-- OFF (rule R116). -/
def envOff (o : Op) : Op := { o with el := 0 }

/-- `EnvStep`: time advances first, saturating, then the rule of the current state runs (rule R111). -/
def envStep (tstep : Int) (o : Op) : Op :=
  let o' : Op := { o with et := min (o.et + tstep) etMax }
  match o.es with
  | .attack => envAttack o'
  | .decay => envDecay o'
  | .sustain => envSustain o'
  | .release => envRelease o'
  | .off => envOff o'

end Sys2Proof.Machine
end

