-- ==== Sys2Proof/Machine/Flags.lean ====
section
/-! DEFINITION. The status outputs, each a pure function of the state (rules R34, R45). The hardware has
no condition codes. The fourth output, `OVERRUN`, is the register `State.overrun`. -/

namespace Sys2Proof.Machine

/-- `AVAIL`: the number of words in the FIFO (rule R45). -/
def avail (s : State) : Nat := s.fifo.length

/-- `HAS_DATA`: the FIFO holds at least one word (rules R45, R204). -/
def hasData (s : State) : Bool := decide (1 ≤ avail s)

/-- `ANY_ACTIVE`: some voice is active (rule R45). -/
def anyActive (s : State) : Bool := (List.finRange 16).any fun v => s.voices[v].active

/-- `CH_ACTIVE[c]`: some active voice is on channel `c` (rule R34). -/
def chActive (s : State) (c : Fin 8) : Bool :=
  (List.finRange 16).any fun v => s.voices[v].active && decide (s.voices[v].chan = c)

end Sys2Proof.Machine
end

