-- ==== Sys2Proof/Machine/Operator.lean ====
section
/-! DEFINITION. One operator's output (spec/40_operator_waveform.md) and its phase advance (rule R185). -/

namespace Sys2Proof.Machine

open Sys2Proof.Config

/-- `EffPhase`: the operator's phase shifted by the modulation, reduced to one turn (rule R101). -/
def effPhase (o : Op) (modin : Int) : Int := (o.phase + mulQ modin o.modidx) % twoPiQ

/-- `Scale`: the four-factor product, rounded once (rule R103). -/
def scale (o : Op) (w : Int) : Int := rnd (w * o.amp * o.el * o.vel) (one * one * one)

/-- `GEN`: the operator's output for a modulation input (rule R100). -/
def gen (o : Op) (modin : Int) : Int := scale o (waveQ o.wave (effPhase o modin))

/-- `PhaseAdvance`: one sample's advance, bent and wrapped (rule R185). -/
def phaseAdvance (o : Op) : Op := { o with phase := (o.phase + mulQ o.pinc o.pb) % twoPiQ }

end Sys2Proof.Machine
end

