-- ==== Sys2Proof/Machine/Router.lean ====
section
/-! DEFINITION. The algorithm router (spec/42_algorithm_router.md), for any routing row. -/

namespace Sys2Proof.Machine

open Sys2Proof.Config

/-- The output of operator `t`, following modulation edges backwards at most `k` operators deep. On an
acyclic row six levels reach every modulator, and the result is the `out[t]` of rule R122, whatever the
order of evaluation (rule R121; log 7). -/
def opOut (row : AlgRow) (ops : Vector Op 6) : Nat → Fin 6 → Int
  | 0, _ => 0
  | k + 1, t =>
    gen ops[t] (rnd (sumOver 6 fun m =>
      if modulates row m t then opOut row ops k m * ops[m].modidx else 0) one)

/-- `Route`: the exact sum of the carriers' outputs (rules R122, R126). -/
def route (row : AlgRow) (ops : Vector Op 6) : Int :=
  sumOver 6 fun i => if isCarrier row i then opOut row ops 6 i else 0

end Sys2Proof.Machine
end

