-- ==== Sys2Proof/Machine/Mixer.lean ====
section
/-! DEFINITION. One sample: the per-voice pipeline, pan, sums and conversion (spec/44_tick_pipeline_mixer.md)
and the batch sequencer that decides whether a `TICK` makes a sample (rule R196). The routing table and
the effect parameters are arguments, so that a claim can quantify over them (rules R5, R125). -/

namespace Sys2Proof.Machine

open Sys2Proof.Config

/-- Every operator of the voice is OFF (rule R119). -/
def allOff (vc : Voice) : Bool := (List.finRange 6).all fun i => decide (vc.ops[i].es = .off)

/-- `VoiceStep`: the six steps of one active voice. The sample is `none` when the voice is reclaimed and
skipped (rules R141, R143). -/
def voiceStep (rom : AlgRom) (p : FxParams) (s : State) (vc : Voice) : Voice × Option Int :=
  let stepped := vc.eachOp (envStep s.tstep)
  if allOff stepped then (releaseVoice stepped, none)
  else
    (stepped.eachOp phaseAdvance,
      some (mulQ (fxWith p s (route (rom s.chans[vc.chan].alg) stepped.ops)) s.mvol))

/-- What one sample does with a voice: an inactive voice is left alone (rule R140). -/
def voiceSample (rom : AlgRom) (p : FxParams) (s : State) (vc : Voice) : Voice × Option Int :=
  if vc.active then voiceStep rom p s vc else (vc, none)

/-- The exact sum of the samples of the voices of one parity: even voices go left, odd ones right
(rules R144, R145). -/
def sideSum (rom : AlgRom) (p : FxParams) (s : State) (parity : Nat) : Int :=
  sumOver 16 fun v =>
    if v.val % 2 = parity then ((voiceSample rom p s s.voices[v]).2).getD 0 else 0

/-- `Convert`: a sum to a 14-bit sample (rule R146). -/
def convert (x : Int) : Int := clamp (rnd (x * audioScale) one) outMin outMax

/-- The left and right samples of the frame the next `GenerateFrame` returns (rule R140). -/
def frame (rom : AlgRom) (p : FxParams) (s : State) : Int × Int :=
  (convert (sideSum rom p s 0), convert (sideSum rom p s 1))

/-- The state `GenerateFrame` leaves: every voice stepped, nothing else changed (rules R140, R142; log 15). -/
def afterFrame (rom : AlgRom) (p : FxParams) (s : State) : State :=
  s.eachVoice fun vc => (voiceSample rom p s vc).1

/-- One generated sample with `rem` frames of the batch left before it (rule R196). -/
def generate (rom : AlgRom) (p : FxParams) (rem : Nat) (s : State) : State :=
  fifoPush (frame rom p s).1 (frame rom p s).2 { afterFrame rom p s with batchRem := rem - 1 }

/-- `TICK` for a given routing table and given effect parameters (rule R196). -/
def tickWith (rom : AlgRom) (p : FxParams) (s : State) : State :=
  if s.batchRem = 0 then
    if s.run && anyActive s then generate rom p batchLen s else s
  else generate rom p s.batchRem s

/-- `TICK` of this machine (rule R196). -/
def tick (s : State) : State := tickWith algRom Config.fx s

end Sys2Proof.Machine
end

