-- ==== Sys2Proof/Machine/Events.lean ====
section
/-! DEFINITION. Which presented event is taken next, and what taking it does (rules R66, R67, R203, R235),
for a machine configured with any routing table and for this machine (rule R125). -/

namespace Sys2Proof.Machine

open Sys2Proof.Config

/-- The event taken next from a list of presented events, and the list without it: the first event that
is enabled. A `POP` is enabled unless the FIFO is empty; held, it keeps its place and the events behind it
go past it, since it holds up the sink alone (rules R203, R207, R226; log 3). -/
def takeFirst (fifoEmpty : Bool) : List Event → Option (Event × List Event)
  | [] => none
  | .pop :: rest =>
    if fifoEmpty then
      match takeFirst fifoEmpty rest with
      | some (e, rest') => some (e, .pop :: rest')
      | none => none
    else some (.pop, rest)
  | e :: rest => some (e, rest)

/-- The event the machine takes next, and the events left (log 1, log 3). -/
def nextEvent (s : State) : Option (Event × List Event) := takeFirst (!hasData s) s.pending

/-- A command word: it is decoded and executed; a word with a reserved opcode is dropped (rule R88; log 13). -/
def runWord (w : CommandWord) (s : State) : Host.Outcome State Fault Refusal :=
  match decode w with
  | .ok i => exec i s
  | .error _ => .next s

/-- One event as one atomic step of the machine with the routing table `rom` (rules R66, R235). The
commands, `POP` and `RESET` do not read the table; the effect constants are free already (log 9). `POP` is
total here: on an empty FIFO it changes nothing, and no step ever takes it then (log 21). -/
def performWith (rom : AlgRom) (e : Event) (s : State) : Host.Outcome State Fault Refusal :=
  match e with
  | .command w => runWord w s
  | .tick => .next (tickWith rom Config.fx s)
  | .pop => .next (pop s)
  | .reset => .next (resetMachine s)

/-- One event of this machine (rules R66, R235). -/
def perform (e : Event) (s : State) : Host.Outcome State Fault Refusal := performWith algRom e s

/-- A step of the whole machine with the routing table `rom`. With no enabled event the machine waits and
nothing changes (log 2). -/
def stepWith (rom : AlgRom) (s : State) : Host.Outcome State Fault Refusal :=
  match nextEvent s with
  | some (e, rest) => performWith rom e { s with pending := rest }
  | none => .next s

/-- A step of this machine: its table is `ALG_ROM_REF` (rules R5, R125; log 6). -/
def stepMachine (s : State) : Host.Outcome State Fault Refusal := stepWith algRom s

/-- The step of the hardware configured with a routing table; a table that is no configuration of this
hardware is refused (rules R121, R123 to R125; spec/93, I1 and I2). A claim that is to hold of this
hardware whatever its table quantifies over what this answers. -/
def configure (rom : AlgRom) : Option (State → Host.Outcome State Fault Refusal) :=
  if legalAlgRom rom then some (stepWith rom) else none

/-- The hardware configured with a routing table, as the host sees it (rule R125). -/
def coreOf (rom : AlgRom) : Option Host.Core :=
  (configure rom).map fun f =>
    { State := State, Fault := Fault, Refusal := Refusal, step := f, reset := State.reset }

/-- The state with a command word presented ahead of every other event. -/
def presentWord (s : State) (w : CommandWord) : State := { s with pending := .command w :: s.pending }

end Sys2Proof.Machine
end

