-- ==== Sys2Proof/Machine/Step.lean ====
section
/-! DEFINITION. The step of the machine. There is no program counter and no stored program (rule R50): the
next command is the one the host presents, so `withFetchWord` presents one. -/

namespace Sys2Proof.Machine

/-- One step: the next enabled event is taken (rule R235). -/
def step (s : State) : Host.Outcome State Fault Refusal := stepMachine s

/-- `s` with the command word of `nbits` bits presented first, so that the very next step executes it
(log 1). -/
def State.withFetchWord (s : State) (nbits w : Nat) : State :=
  presentWord s (BitVec.ofNat 208 (w % 2 ^ nbits))

end Sys2Proof.Machine
end

