-- ==== Sys2Proof/Safety.lean ====
section
/-! DEFINITION. The terms claims are made in: the legal range of every register (rule R52), frame
alignment of the stream (rule R47), and what it means that a command touched only one thing. -/

namespace Sys2Proof.Machine

open Sys2Proof.Config

/-- `lo ≤ x ≤ hi`. -/
abbrev Within (x lo hi : Int) : Prop := lo ≤ x ∧ x ≤ hi

/-- Every field of an operator is in its legal range, and `PINC` is the increment of `FREQ` at the
sample rate `fs` (rules R21, R22, R52). -/
structure OpInv (fs : Int) (o : Op) : Prop where
  freq : Within o.freq 0 qmax
  amp : Within o.amp 0 one
  modidx : Within o.modidx (-qmax - 1) qmax
  atk : Within o.atk envTMin qmax
  dcy : Within o.dcy envTMin qmax
  sus : Within o.sus 0 one
  rel : Within o.rel envTMin qmax
  pb : Within o.pb 0 qmax
  mw : Within o.mw 0 one
  vel : Within o.vel 0 one
  el : Within o.el 0 one
  et : Within o.et 0 etMax
  phase : Within o.phase 0 (twoPiQ - 1)
  pincRange : Within o.pinc 0 qmax
  pincDerived : o.pinc = pinc o.freq fs

/-- A voice is free exactly when it holds no note, and its registers are in range (rules R30, R31). -/
structure VoiceInv (fs : Int) (vc : Voice) : Prop where
  free : vc.active = false → vc.note = -1
  held : vc.active = true → Within vc.note 0 127
  vel : Within vc.vel 0 one
  ops : ∀ i : Fin 6, OpInv fs vc.ops[i]

/-- The registers of a channel are in range (rule R33). -/
structure ChannelInv (ch : Channel) : Prop where
  pb : Within ch.pb 0 qmax
  mw : Within ch.mw 0 one

/-- The registers of a template row are in range (rule R36). -/
structure TplInv (r : TplRow) : Prop where
  ratio : Within r.ratio 0 qmax
  amp : Within r.amp 0 one
  modidx : Within r.modidx (-qmax - 1) qmax
  atk : Within r.atk envTMin qmax
  dcy : Within r.dcy envTMin qmax
  sus : Within r.sus 0 one
  rel : Within r.rel envTMin qmax

/-- The reachable-state invariants of rule R52: every register in its legal range, rule R31 for every
voice, the derived registers equal to what they derive from, the FIFO within its depth and its words
within the 14-bit range (rules R40, R47, R206). -/
structure State.Inv (s : State) : Prop where
  voices : ∀ v : Fin 16, VoiceInv s.fs s.voices[v]
  chans : ∀ c : Fin 8, ChannelInv s.chans[c]
  tpl : ∀ i : Fin 6, TplInv s.tpl[i]
  fs : Within s.fs fsMin fsMax
  tstep : s.tstep = tstepOf s.fs
  mvol : Within s.mvol 0 one
  reverb : Within s.reverb 0 one
  chorus : Within s.chorus 0 one
  dist : Within s.dist 0 one
  lfoRange : Within s.chorusLfo (-one) one
  lfoDerived : s.chorusLfo = chorusLfoOf s.fs
  batchRem : s.batchRem ≤ batchLen
  fifoLength : s.fifo.length ≤ fifoDepth
  fifoWords : ∀ w ∈ s.fifo, Within w.toInt outMin outMax
  sunkWords : ∀ w ∈ s.delivered, Within w.toInt outMin outMax

/-- The words pushed since reset, popped or still queued, make whole frames (rules R47, R63). -/
def State.FrameAligned (s : State) : Prop := (s.delivered.length + s.fifo.length) % 2 = 0

/-- `t` differs from `s` at most in the registers of operator `i` of voice `v`. -/
def OnlyOp (v : Fin 16) (i : Fin 6) (s t : State) : Prop :=
  t = { s with voices := t.voices } ∧
    ∀ v' : Fin 16, t.voices[v'] = { s.voices[v'] with ops := t.voices[v'].ops } ∧
      ∀ i' : Fin 6, (v', i') ≠ (v, i) → t.voices[v'].ops[i'] = s.voices[v'].ops[i']

/-- `t` differs from `s` at most in the registers of voice `v` and its operators. -/
def OnlyVoice (v : Fin 16) (s t : State) : Prop :=
  t = { s with voices := t.voices } ∧ ∀ v' : Fin 16, v' ≠ v → t.voices[v'] = s.voices[v']

/-- `t` differs from `s` at most in the registers of channel `c`. -/
def OnlyChan (c : Fin 8) (s t : State) : Prop :=
  t = { s with chans := t.chans } ∧ ∀ c' : Fin 8, c' ≠ c → t.chans[c'] = s.chans[c']

/-- `t` differs from `s` at most in template row `i`. -/
def OnlyTpl (i : Fin 6) (s t : State) : Prop :=
  t = { s with tpl := t.tpl } ∧ ∀ i' : Fin 6, i' ≠ i → t.tpl[i'] = s.tpl[i']

/-- Every step of a run of `k` steps answers a next state: the run never stops. -/
def NeverStops (k : Nat) (s : State) : Prop := ∃ t, Sys2Proof.core.run k s = .next t

/-- Every word whose opcode is `n` decodes to the command `f` makes of its fields (rule R83). -/
def OpcodeDecodes (n : Nat) (f : CommandWord → Instr) : Prop :=
  ∀ w : CommandWord, (opcField w).toNat = n → decode w = .ok (f w)

/-- The bits of a command word that its opcode makes the command use; the others are the fields marked
"-" in the opcode map (rules R83, R85). -/
def usedBits (opc : Nat) : CommandWord :=
  match opc with
  | 0x01 => fieldsWord 0xFF 0 0 (-1) (-1) 0 0
  | 0x02 => fieldsWord 0xFF 0 0 (-1) 0 0 0
  | 0x04 => fieldsWord 0xFF (-1) 0 (-1) 0 0 0
  | 0x05 => fieldsWord 0xFF (-1) (-1) (-1) 0 0 0
  | 0x06 => fieldsWord 0xFF (-1) (-1) (-1) 0 0 0
  | 0x07 => fieldsWord 0xFF (-1) (-1) (-1) 0 0 0
  | 0x08 => fieldsWord 0xFF (-1) (-1) (-1) 0 0 0
  | 0x09 => fieldsWord 0xFF (-1) (-1) (-1) (-1) (-1) (-1)
  | 0x0A => fieldsWord 0xFF 0 0 (-1) 0 0 0
  | 0x0B => fieldsWord 0xFF 0 0 (-1) 0 0 0
  | 0x0C => fieldsWord 0xFF (-1) 0 (-1) 0 0 0
  | 0x0D => fieldsWord 0xFF (-1) 0 (-1) 0 0 0
  | 0x0E => fieldsWord 0xFF 0 0 (-1) 0 0 0
  | 0x0F => fieldsWord 0xFF 0 0 (-1) 0 0 0
  | 0x10 => fieldsWord 0xFF 0 0 (-1) 0 0 0
  | 0x11 => fieldsWord 0xFF 0 (-1) (-1) (-1) (-1) (-1)
  | 0x12 => fieldsWord 0xFF 0 (-1) (-1) (-1) (-1) (-1)
  | 0x13 => fieldsWord 0xFF (-1) 0 0 0 0 0
  | _ => fieldsWord 0xFF 0 0 0 0 0 0

/-- The code of a waveform (rule R21). -/
def waveCode : Waveform → Nat
  | .sine => 0
  | .sawtooth => 1
  | .square => 2
  | .triangle => 3

/-- The voice a `NOTE_ON` of note `n` with velocity `vel` builds from the registers of `s`, as rule R131
lists it. -/
def IsNewNote (s : State) (n : Fin 128) (vel : Int) (vc : Voice) : Prop :=
  vc.active = true ∧ vc.note = n.val ∧ vc.vel = vel ∧ vc.chan = s.curChan ∧
    ∀ i : Fin 6,
      vc.ops[i].freq = min (rnd (noteRom n * s.tpl[i].ratio) one) qmax ∧
      vc.ops[i].pinc = pinc vc.ops[i].freq s.fs ∧
      vc.ops[i].amp = s.tpl[i].amp ∧ vc.ops[i].modidx = s.tpl[i].modidx ∧
      vc.ops[i].wave = s.tpl[i].wave ∧ vc.ops[i].atk = s.tpl[i].atk ∧ vc.ops[i].dcy = s.tpl[i].dcy ∧
      vc.ops[i].sus = s.tpl[i].sus ∧ vc.ops[i].rel = s.tpl[i].rel ∧
      vc.ops[i].es = .attack ∧ vc.ops[i].et = 0 ∧ vc.ops[i].el = 0 ∧ vc.ops[i].phase = 0 ∧
      vc.ops[i].pb = s.chans[s.curChan].pb ∧ vc.ops[i].mw = s.chans[s.curChan].mw ∧
      vc.ops[i].vel = vel

/-- The voices stepped one after the other in the order of a list: the state left, and the sums of the
samples of the even and of the odd voices. The simultaneous version is `afterFrame` and `sideSum`. -/
def stepVoicesInOrder (rom : AlgRom) (p : FxParams) : List (Fin 16) → State → State × Int × Int
  | [], s => (s, 0, 0)
  | v :: vs, s =>
    let r := voiceSample rom p s s.voices[v]
    let next := stepVoicesInOrder rom p vs (s.updVoice v fun _ => r.1)
    (next.1, (if v.val % 2 = 0 then r.2.getD 0 else 0) + next.2.1,
      (if v.val % 2 = 1 then r.2.getD 0 else 0) + next.2.2)

/-- The state with every modulation wheel register, of the operators and of the channels, cleared. -/
def eraseWheels (s : State) : State :=
  { s with
    voices := each (Voice.eachOp fun o => { o with mw := 0 }) s.voices
    chans := each (fun ch => { ch with mw := 0 }) s.chans }

/-- The state with every free voice as it is after reset: its operators, velocity and channel cleared. -/
def eraseFree (s : State) : State :=
  { s with voices := each (fun vc => if vc.active then vc else Voice.reset) s.voices }

end Sys2Proof.Machine
end

