-- ==== Sys2Proof/Certificates/Slice0/Obligations.lean ====
section
/-! DEFINITION. The statements made about the machine: what each command does and leaves alone, what a
`TICK` computes, how the stream behaves, and the invariants every step keeps. -/

open Sys2Proof Sys2Proof.Machine Sys2Proof.Config

/-! ### Encoding and the step -/

/-- Decoding the encoding of any command gives the command back, every operand bit included; and encoding
what a word decodes to gives the word back, but for the bits of the fields its opcode ignores, which are
zeros (rules R80 to R83, R85). -/
def Obligations.DecodeOfEncodeIsIdentity : Prop :=
  (∀ i : Instr, decode (encode i) = .ok i) ∧
  ∀ (w : CommandWord) (i : Instr), decode w = .ok i → encode i = w &&& usedBits (opcField w).toNat

/-- Clearing the bits of the fields a command ignores changes nothing in what it decodes to, and a plain
integer argument out of range is not reduced: the command is dropped (rule R85). -/
def Obligations.DecodeReadsOnlyUsedFields : Prop :=
  (∀ w : CommandWord, decode (w &&& usedBits (opcField w).toNat) = decode w) ∧
  (∀ (s : State) (v : IdxField) (o : OpiField) (a : Arg), (a.toInt < 0 ∨ 3 < a.toInt) →
    exec (.setOpWave v o a) s = .next s)

/-- 23 opcodes give a command of that opcode; a word with any other opcode is rejected and dropped, no
state changing (rule R88). -/
def Obligations.ReservedOpcodesAreDropped : Prop :=
  ∀ w : CommandWord,
    (0x17 ≤ (opcField w).toNat →
      decode w = .error (.reservedOpcode (opcField w)) ∧ ∀ s : State, runWord w s = .next s) ∧
    ((opcField w).toNat ≤ 0x16 → ∃ i, decode w = .ok i ∧ opcodeOf i = (opcField w).toNat)

/-- The eight worked words decode to the commands they stand for, the last of which is dropped, and the
header of any word is `OPC << 8 | IDX << 3 | OPI` (rule R94). -/
def Obligations.WorkedEncodingsDecode : Prop :=
  decode 0x0000000000000000000000000000000000000000000000000000 = .ok .nop ∧
  decode 0x010000000000003C000000400000000000000000000000000000 = .ok (.noteOn 60 4194304) ∧
  decode 0x020000000000003C000000000000000000000000000000000000 = .ok (.noteOff 60) ∧
  decode 0x041000000000001F000000000000000000000000000000000000 = .ok (.setAlgorithm 2 31) ∧
  decode 0x091A000000008000000000080000000000200000000000100000
    = .ok (.setEnvelope 3 2 32768 524288 2097152 1048576) ∧
  decode 0x077DFFFFFFC00000000000000000000000000000000000000000
    = .ok (.setOpModidx 15 5 (BitVec.ofInt 48 (-4194304))) ∧
  decode 0x0B00000000008000000000000000000000000000000000000000 = .ok (.setSampleRate 32768) ∧
  decode 0x058000006E000000000000000000000000000000000000000000 = .ok (.setOpFreq 16 0 1845493760) ∧
  (∀ s : State, exec (.setOpFreq 16 0 1845493760) s = .next s) ∧
  ∀ w : CommandWord, w.toNat / 2 ^ 192
    = (opcField w).toNat * 2 ^ 8 + (idxField w).toNat * 2 ^ 3 + (opiField w).toNat

/-- A presented command word is taken by the next step, decoded and executed on the state without it; a
word with a reserved opcode is taken and dropped. `withFetchWord` presents such a word ahead of whatever is
presented, from every state, that after reset included. That events are presented in a list is the model's
choice (log 1). -/
def Obligations.StepExecutesPresentedCommand : Prop :=
  (∀ (s : State) (w : CommandWord) (rest : List Event), s.pending = .command w :: rest →
    (∀ i, decode w = .ok i → step s = exec i { s with pending := rest }) ∧
    ∀ e, decode w = .error e → step s = .next { s with pending := rest }) ∧
  ∀ (s : State) (w : CommandWord),
    (∀ i, decode w = .ok i → step (s.withFetchWord 208 w.toNat) = exec i s) ∧
    ∀ e, decode w = .error e → step (s.withFetchWord 208 w.toNat) = .next s

/-- A `POP` on an empty FIFO is held: with nothing else presented nothing changes, and any other event
behind it goes past it while the request stays (rules R203, R207, R226; the place a held request keeps in
the list is the model's, log 3, and so is the step that changes nothing, log 2). -/
def Obligations.HeldPopStopsOnlyTheSink : Prop :=
  ∀ (s : State) (n : Nat), s.fifo = [] →
    (s.pending = List.replicate n .pop → step s = .next s) ∧
    ∀ (e : Event) (rest : List Event), e ≠ .pop → s.pending = List.replicate n .pop ++ e :: rest →
      step s = perform e { s with pending := List.replicate n .pop ++ rest }

/-- A `POP` with data removes the word at the head of the FIFO and returns it to the sink; nothing else
changes (rule R202). That the word returned is appended to `delivered` (log 4) and the request taken out of
`pending` (log 1) is how the model shows the sink's side of the port. -/
def Obligations.PopReturnsTheHeadWord : Prop :=
  ∀ (s : State) (w : StreamWord) (rest : List StreamWord) (later : List Event),
    s.fifo = w :: rest → s.pending = .pop :: later →
    step s = .next { s with pending := later, fifo := rest, delivered := s.delivered ++ [w] }

/-- No command, no `TICK`, no `POP`, no `RESET` and no step has a fault outcome: each answers a next
state (rule R220). That a step with no enabled event answers the same state is the model's choice (log 2),
and so is that `perform` answers for a `POP` on an empty FIFO, which has no step (rule R203; log 21). -/
def Obligations.EveryEventAnswersANextState : Prop :=
  (∀ (i : Instr) (s : State), ∃ t, exec i s = .next t) ∧
  (∀ (e : Event) (s : State), (e = .pop → 1 ≤ avail s) → ∃ t, perform e s = .next t) ∧
  (∀ s : State, s.fifo = [] → perform .pop s = .next s) ∧
  ∀ s : State, ∃ t, step s = .next t

/-- The hardware has no halt: a run of any length from any state goes on (rule R235). In a state with no
enabled event it goes on by the idle step, which the spec does not have and the model adds (log 2). -/
def Obligations.NoRunEverStops : Prop :=
  ∀ (k : Nat) (s : State), NeverStops k s

/-- A command that fails an index or enumeration check writes nothing at all (rules R84, R150). -/
def Obligations.DroppedCommandChangesNothing : Prop :=
  ∀ (i : Instr) (s : State), i.wellFormed = false → exec i s = .next s

/-- `RESET` gives every register its reset value, whatever the state was (rule R240). What becomes of the
two fields that stand for the far side of the ports is left out here (log 4, log 5). -/
def Obligations.ResetInstallsEveryValue : Prop :=
  (∀ s : State, ∃ t, perform .reset s = .next t ∧
    t = { State.reset with pending := t.pending, delivered := t.delivered }) ∧
  (∀ (v : Fin 16) (i : Fin 6),
    State.reset.voices[v].active = false ∧ State.reset.voices[v].note = -1 ∧
    State.reset.voices[v].vel = 0 ∧ State.reset.voices[v].chan = 0 ∧
    State.reset.voices[v].ops[i] =
      { freq := 0, pinc := 0, amp := 0, modidx := 0, wave := .sine, atk := 4096, dcy := 4096, sus := 0,
        rel := 4096, es := .off, el := 0, et := 0, phase := 0, pb := 4194304, mw := 0, vel := 0 }) ∧
  (∀ c : Fin 8, State.reset.chans[c] = { alg := 0, pb := 4194304, mw := 0 }) ∧
  (∀ i : Fin 6, State.reset.tpl[i] =
    { ratio := 4194304, amp := if i = 0 then 3774874 else 0, modidx := 4194304, wave := .sine,
      atk := 32768, dcy := 524288, sus := 2097152, rel := 1048576 }) ∧
  State.reset.fs = 44100 ∧ State.reset.tstep = 97392 ∧ State.reset.chorusLfo = chorusLfoOf 44100 ∧
  State.reset.mvol = 4194304 ∧ State.reset.reverb = 0 ∧ State.reset.chorus = 0 ∧ State.reset.dist = 0 ∧
  State.reset.curChan = 0 ∧ State.reset.run = false ∧ State.reset.batchRem = 0 ∧
  State.reset.overrun = false ∧ State.reset.fifo = []

/-! ### The register setters -/

/-- `NOP` reads nothing and writes nothing (rule R169). -/
def Obligations.NopChangesNothing : Prop :=
  OpcodeDecodes 0x00 (fun _ => .nop) ∧ ∀ s : State, exec .nop s = .next s

/-- `SET_ALGORITHM` writes `CH[c].ALG` and nothing else; a bad channel or index drops it (rule R151). -/
def Obligations.SetAlgorithmWritesTheChannel : Prop :=
  OpcodeDecodes 0x04 (fun w => .setAlgorithm (idxField w) (a0Field w)) ∧
  (∀ (s : State) (c : Fin 8) (n : Fin 32), ∃ t,
    exec (.setAlgorithm (BitVec.ofNat 5 c.val) (BitVec.ofNat 48 n.val)) s = .next t ∧
    OnlyChan c s t ∧ t.chans[c] = { s.chans[c] with alg := n }) ∧
  ∀ (s : State) (c : IdxField) (a : Arg), (7 < c.toNat ∨ a.toInt < 0 ∨ 31 < a.toInt) →
    exec (.setAlgorithm c a) s = .next s

/-- `SET_OP_FREQ` writes the clamped frequency and its phase increment, not the phase and nothing else; a
bad index drops it (rule R152). -/
def Obligations.SetOpFreqWritesFrequencyAndIncrement : Prop :=
  OpcodeDecodes 0x05 (fun w => .setOpFreq (idxField w) (opiField w) (a0Field w)) ∧
  (∀ (s : State) (v : Fin 16) (i : Fin 6) (a : Arg), ∃ t,
    exec (.setOpFreq (BitVec.ofNat 5 v.val) (BitVec.ofNat 3 i.val) a) s = .next t ∧
    OnlyOp v i s t ∧
    t.voices[v].ops[i] = { s.voices[v].ops[i] with
      freq := clamp a.toInt 0 qmax, pinc := pinc (clamp a.toInt 0 qmax) s.fs }) ∧
  ∀ (s : State) (v : IdxField) (o : OpiField) (a : Arg), (15 < v.toNat ∨ 5 < o.toNat) →
    exec (.setOpFreq v o a) s = .next s

/-- `SET_OP_AMP` writes the amplitude clamped to `[0, ONE]` and `SET_OP_MODIDX` the modulation index as it
is; nothing else changes; a bad index drops them (rules R153, R154). -/
def Obligations.SetOpAmpAndModIndexWriteOneField : Prop :=
  OpcodeDecodes 0x06 (fun w => .setOpAmp (idxField w) (opiField w) (a0Field w)) ∧
  OpcodeDecodes 0x07 (fun w => .setOpModidx (idxField w) (opiField w) (a0Field w)) ∧
  (∀ (s : State) (v : Fin 16) (i : Fin 6) (a : Arg),
    (∃ t, exec (.setOpAmp (BitVec.ofNat 5 v.val) (BitVec.ofNat 3 i.val) a) s = .next t ∧
      OnlyOp v i s t ∧
      t.voices[v].ops[i] = { s.voices[v].ops[i] with amp := clamp a.toInt 0 one }) ∧
    ∃ t, exec (.setOpModidx (BitVec.ofNat 5 v.val) (BitVec.ofNat 3 i.val) a) s = .next t ∧
      OnlyOp v i s t ∧
      t.voices[v].ops[i] = { s.voices[v].ops[i] with modidx := a.toInt }) ∧
  ∀ (s : State) (v : IdxField) (o : OpiField) (a : Arg), (15 < v.toNat ∨ 5 < o.toNat) →
    exec (.setOpAmp v o a) s = .next s ∧ exec (.setOpModidx v o a) s = .next s

/-- `SET_OP_WAVE` writes the waveform named by the code and nothing else; a bad index or code drops it
(rule R155). -/
def Obligations.SetOpWaveWritesTheWaveform : Prop :=
  OpcodeDecodes 0x08 (fun w => .setOpWave (idxField w) (opiField w) (a0Field w)) ∧
  (∀ (s : State) (v : Fin 16) (i : Fin 6) (w : Waveform), ∃ t,
    exec (.setOpWave (BitVec.ofNat 5 v.val) (BitVec.ofNat 3 i.val) (BitVec.ofNat 48 (waveCode w))) s
      = .next t ∧
    OnlyOp v i s t ∧ t.voices[v].ops[i] = { s.voices[v].ops[i] with wave := w }) ∧
  ∀ (s : State) (v : IdxField) (o : OpiField) (a : Arg),
    (15 < v.toNat ∨ 5 < o.toNat ∨ a.toInt < 0 ∨ 3 < a.toInt) → exec (.setOpWave v o a) s = .next s

/-- `SET_ENVELOPE` writes the three times, floored at `ENV_T_MIN`, and the clamped sustain level; the
envelope's state, time and level stay; a bad index drops it (rule R156). -/
def Obligations.SetEnvelopeWritesTimesAndSustain : Prop :=
  OpcodeDecodes 0x09 (fun w => .setEnvelope (idxField w) (opiField w) (a0Field w) (a1Field w)
    (a2Field w) (a3Field w)) ∧
  (∀ (s : State) (v : Fin 16) (i : Fin 6) (a d su r : Arg), ∃ t,
    exec (.setEnvelope (BitVec.ofNat 5 v.val) (BitVec.ofNat 3 i.val) a d su r) s = .next t ∧
    OnlyOp v i s t ∧
    t.voices[v].ops[i] = { s.voices[v].ops[i] with
      atk := max a.toInt 4096, dcy := max d.toInt 4096, sus := clamp su.toInt 0 one,
      rel := max r.toInt 4096 }) ∧
  ∀ (s : State) (v : IdxField) (o : OpiField) (a d su r : Arg), (15 < v.toNat ∨ 5 < o.toNat) →
    exec (.setEnvelope v o a d su r) s = .next s

/-- `SET_MASTER_VOL`, `SET_REVERB`, `SET_CHORUS` and `SET_DISTORTION` write one global register, clamped to
`[0, ONE]`, and nothing else (rules R157, R163, R164, R165). -/
def Obligations.UnitGlobalsAreClampedAndWritten : Prop :=
  OpcodeDecodes 0x0A (fun w => .setMasterVol (a0Field w)) ∧
  OpcodeDecodes 0x0E (fun w => .setReverb (a0Field w)) ∧
  OpcodeDecodes 0x0F (fun w => .setChorus (a0Field w)) ∧
  OpcodeDecodes 0x10 (fun w => .setDistortion (a0Field w)) ∧
  ∀ (s : State) (a : Arg),
    exec (.setMasterVol a) s = .next { s with mvol := clamp a.toInt 0 one } ∧
    exec (.setReverb a) s = .next { s with reverb := clamp a.toInt 0 one } ∧
    exec (.setChorus a) s = .next { s with chorus := clamp a.toInt 0 one } ∧
    exec (.setDistortion a) s = .next { s with dist := clamp a.toInt 0 one }

/-- `SET_SAMPLE_RATE` writes the clamped rate, the time step, the chorus factor and the phase increments
of all 96 operators, active or not, and nothing else (rule R160). -/
def Obligations.SetSampleRateRecomputesDerivedRegisters : Prop :=
  OpcodeDecodes 0x0B (fun w => .setSampleRate (a0Field w)) ∧
  ∀ (s : State) (a : Arg), ∃ t, exec (.setSampleRate a) s = .next t ∧
    t = { s with fs := clamp a.toInt 8000 192000, tstep := ceilDiv (2 ^ 32) (clamp a.toInt 8000 192000),
                 chorusLfo := chorusLfoOf (clamp a.toInt 8000 192000), voices := t.voices } ∧
    ∀ v : Fin 16, t.voices[v] = { s.voices[v] with ops := t.voices[v].ops } ∧
      ∀ i : Fin 6, t.voices[v].ops[i] = { s.voices[v].ops[i] with
        pinc := pinc s.voices[v].ops[i].freq (clamp a.toInt 8000 192000) }

/-- `SET_PITCH_BEND` and `SET_MOD_WHEEL` write the channel's register and that of every operator of the
active voices on the channel, clamped, and nothing else; a bad channel drops them (rules R161, R162). -/
def Obligations.BendAndWheelAreBroadcast : Prop :=
  OpcodeDecodes 0x0C (fun w => .setPitchBend (idxField w) (a0Field w)) ∧
  OpcodeDecodes 0x0D (fun w => .setModWheel (idxField w) (a0Field w)) ∧
  (∀ (s : State) (c : Fin 8) (a : Arg),
    (∃ t, exec (.setPitchBend (BitVec.ofNat 5 c.val) a) s = .next t ∧
      t = { s with chans := t.chans, voices := t.voices } ∧
      (∀ c' : Fin 8, t.chans[c'] =
        if c' = c then { s.chans[c'] with pb := clamp a.toInt 0 qmax } else s.chans[c']) ∧
      ∀ v : Fin 16, t.voices[v] = { s.voices[v] with ops := t.voices[v].ops } ∧
        ∀ i : Fin 6, t.voices[v].ops[i] =
          if s.voices[v].active = true ∧ s.voices[v].chan = c
          then { s.voices[v].ops[i] with pb := clamp a.toInt 0 qmax } else s.voices[v].ops[i]) ∧
    ∃ t, exec (.setModWheel (BitVec.ofNat 5 c.val) a) s = .next t ∧
      t = { s with chans := t.chans, voices := t.voices } ∧
      (∀ c' : Fin 8, t.chans[c'] =
        if c' = c then { s.chans[c'] with mw := clamp a.toInt 0 one } else s.chans[c']) ∧
      ∀ v : Fin 16, t.voices[v] = { s.voices[v] with ops := t.voices[v].ops } ∧
        ∀ i : Fin 6, t.voices[v].ops[i] =
          if s.voices[v].active = true ∧ s.voices[v].chan = c
          then { s.voices[v].ops[i] with mw := clamp a.toInt 0 one } else s.voices[v].ops[i]) ∧
  ∀ (s : State) (c : IdxField) (a : Arg), 7 < c.toNat →
    exec (.setPitchBend c a) s = .next s ∧ exec (.setModWheel c a) s = .next s

/-- `SET_TPL_OSC` and `SET_TPL_ENV` each write four fields of one template row and nothing else, no
sounding voice in particular; a bad row or waveform code drops them (rules R166, R167). -/
def Obligations.TemplateCommandsWriteOneRow : Prop :=
  OpcodeDecodes 0x11 (fun w => .setTplOsc (opiField w) (a0Field w) (a1Field w) (a2Field w)
    (a3Field w)) ∧
  OpcodeDecodes 0x12 (fun w => .setTplEnv (opiField w) (a0Field w) (a1Field w) (a2Field w)
    (a3Field w)) ∧
  (∀ (s : State) (i : Fin 6) (ra am mi : Arg) (w : Waveform), ∃ t,
    exec (.setTplOsc (BitVec.ofNat 3 i.val) ra am mi (BitVec.ofNat 48 (waveCode w))) s = .next t ∧
    OnlyTpl i s t ∧ t.tpl[i] = { s.tpl[i] with
      ratio := clamp ra.toInt 0 qmax, amp := clamp am.toInt 0 one, modidx := mi.toInt, wave := w }) ∧
  (∀ (s : State) (i : Fin 6) (a d su r : Arg), ∃ t,
    exec (.setTplEnv (BitVec.ofNat 3 i.val) a d su r) s = .next t ∧
    OnlyTpl i s t ∧ t.tpl[i] = { s.tpl[i] with
      atk := max a.toInt 4096, dcy := max d.toInt 4096, sus := clamp su.toInt 0 one,
      rel := max r.toInt 4096 }) ∧
  (∀ (s : State) (o : OpiField) (ra am mi w : Arg), (5 < o.toNat ∨ w.toInt < 0 ∨ 3 < w.toInt) →
    exec (.setTplOsc o ra am mi w) s = .next s) ∧
  ∀ (s : State) (o : OpiField) (a d su r : Arg), 5 < o.toNat → exec (.setTplEnv o a d su r) s = .next s

/-- `SET_CUR_CHAN` writes `CUR_CHAN` and nothing else; a bad channel drops it (rule R168). -/
def Obligations.SetCurChanWritesTheRegister : Prop :=
  OpcodeDecodes 0x13 (fun w => .setCurChan (idxField w)) ∧
  (∀ (s : State) (c : Fin 8), exec (.setCurChan (BitVec.ofNat 5 c.val)) s = .next { s with curChan := c }) ∧
  ∀ (s : State) (c : IdxField), 7 < c.toNat → exec (.setCurChan c) s = .next s

/-- `START` sets `RUN`, `STOP` clears it, `CLR_OVERRUN` clears `OVERRUN`; nothing else changes, no batch
is cut, no word is lost (rules R197, R198, R201). -/
def Obligations.StreamCommandsWriteOneBit : Prop :=
  OpcodeDecodes 0x14 (fun _ => .start) ∧ OpcodeDecodes 0x15 (fun _ => .stop) ∧
  OpcodeDecodes 0x16 (fun _ => .clrOverrun) ∧
  ∀ s : State,
    exec .start s = .next { s with run := true } ∧ exec .stop s = .next { s with run := false } ∧
    exec .clrOverrun s = .next { s with overrun := false }

/-! ### Notes -/

/-- `FindFree` answers the lowest index of an inactive voice, and none exactly when all are active
(rule R130). -/
def Obligations.FindFreeIsTheLowestFreeVoice : Prop :=
  ∀ s : State,
    (∀ v : Fin 16, findFree s = some v ↔
      s.voices[v].active = false ∧ ∀ u : Fin 16, u < v → s.voices[u].active = true) ∧
    (findFree s = none ↔ ∀ v : Fin 16, s.voices[v].active = true)

/-- `NOTE_ON` with a legal note writes every register of the lowest free voice, or of voice 0 when all
are active, as rule R131 lists them, and nothing else; a note out of range drops it (rules R131, R132). -/
def Obligations.NoteOnStartsTheLowestFreeVoice : Prop :=
  OpcodeDecodes 0x01 (fun w => .noteOn (a0Field w) (a1Field w)) ∧
  (∀ (s : State) (n : Fin 128) (vel : Arg) (v : Fin 16),
    ((s.voices[v].active = false ∧ ∀ u : Fin 16, u < v → s.voices[u].active = true) ∨
      (v = 0 ∧ ∀ u : Fin 16, s.voices[u].active = true)) →
    ∃ t, exec (.noteOn (BitVec.ofNat 48 n.val) vel) s = .next t ∧
      OnlyVoice v s t ∧ IsNewNote s n (clamp vel.toInt 0 one) t.voices[v]) ∧
  ∀ (s : State) (a vel : Arg), (a.toInt < 0 ∨ 127 < a.toInt) → exec (.noteOn a vel) s = .next s

/-- `NOTE_OFF` puts the six operators of every active voice holding the note into RELEASE at time 0,
whatever their state, and changes nothing else; a note out of range drops it (rule R133). -/
def Obligations.NoteOffReleasesEveryMatchingVoice : Prop :=
  OpcodeDecodes 0x02 (fun w => .noteOff (a0Field w)) ∧
  (∀ (s : State) (n : Fin 128), ∃ t, exec (.noteOff (BitVec.ofNat 48 n.val)) s = .next t ∧
    t = { s with voices := t.voices } ∧
    ∀ v : Fin 16, t.voices[v] = { s.voices[v] with ops := t.voices[v].ops } ∧
      ∀ i : Fin 6, t.voices[v].ops[i] =
        if s.voices[v].active = true ∧ s.voices[v].note = n.val
        then { s.voices[v].ops[i] with es := .release, et := 0 } else s.voices[v].ops[i]) ∧
  ∀ (s : State) (a : Arg), (a.toInt < 0 ∨ 127 < a.toInt) → exec (.noteOff a) s = .next s

/-- `ALL_NOTES_OFF` puts the operators of every active voice into RELEASE at time 0, leaves the voices
active, and changes nothing else (rule R134). -/
def Obligations.AllNotesOffReleasesEveryActiveVoice : Prop :=
  OpcodeDecodes 0x03 (fun _ => .allNotesOff) ∧
  ∀ s : State, ∃ t, exec .allNotesOff s = .next t ∧
    t = { s with voices := t.voices } ∧
    ∀ v : Fin 16, t.voices[v] = { s.voices[v] with ops := t.voices[v].ops } ∧
      ∀ i : Fin 6, t.voices[v].ops[i] =
        if s.voices[v].active = true
        then { s.voices[v].ops[i] with es := .release, et := 0 } else s.voices[v].ops[i]

/-! ### Whole-machine rules about commands -/

/-- Every command but `NOTE_ON` is idempotent when no other step comes between (rule R65). -/
def Obligations.CommandsButNoteOnAreIdempotent : Prop :=
  ∀ (i : Instr) (s t : State), (∀ n vel, i ≠ .noteOn n vel) → exec i s = .next t → exec i t = .next t

/-- Each register of the machine is written, among the commands, only by those the tables of rules R21,
R22, R30, R33, R36 and R40 name for it, field by field; no command touches the FIFO (rules R47, R199) nor
the two fields that stand for the far side of the ports (log 1, log 4). What a `TICK` may write is said by
`TickKeepsEveryParameter`. -/
def Obligations.OnlyNamedCommandsWriteEachRegister : Prop :=
  ∀ (i : Instr) (s t : State), exec i s = .next t →
    t.fifo = s.fifo ∧ t.batchRem = s.batchRem ∧ t.pending = s.pending ∧ t.delivered = s.delivered ∧
    ((∀ a, i ≠ .setSampleRate a) → t.fs = s.fs ∧ t.tstep = s.tstep ∧ t.chorusLfo = s.chorusLfo) ∧
    ((∀ a, i ≠ .setMasterVol a) → t.mvol = s.mvol) ∧
    ((∀ a, i ≠ .setReverb a) → t.reverb = s.reverb) ∧
    ((∀ a, i ≠ .setChorus a) → t.chorus = s.chorus) ∧
    ((∀ a, i ≠ .setDistortion a) → t.dist = s.dist) ∧
    ((∀ c, i ≠ .setCurChan c) → t.curChan = s.curChan) ∧
    (i ≠ .start → i ≠ .stop → t.run = s.run) ∧
    (i ≠ .clrOverrun → t.overrun = s.overrun) ∧
    (∀ r : Fin 6,
      ((∀ o a b c d, i ≠ .setTplOsc o a b c d) →
        t.tpl[r].ratio = s.tpl[r].ratio ∧ t.tpl[r].amp = s.tpl[r].amp ∧
        t.tpl[r].modidx = s.tpl[r].modidx ∧ t.tpl[r].wave = s.tpl[r].wave) ∧
      ((∀ o a b c d, i ≠ .setTplEnv o a b c d) →
        t.tpl[r].atk = s.tpl[r].atk ∧ t.tpl[r].dcy = s.tpl[r].dcy ∧
        t.tpl[r].sus = s.tpl[r].sus ∧ t.tpl[r].rel = s.tpl[r].rel)) ∧
    (∀ c : Fin 8,
      ((∀ x a, i ≠ .setAlgorithm x a) → t.chans[c].alg = s.chans[c].alg) ∧
      ((∀ x a, i ≠ .setPitchBend x a) → t.chans[c].pb = s.chans[c].pb) ∧
      ((∀ x a, i ≠ .setModWheel x a) → t.chans[c].mw = s.chans[c].mw)) ∧
    ((∀ n vel, i ≠ .noteOn n vel) → ∀ v : Fin 16,
      t.voices[v].active = s.voices[v].active ∧ t.voices[v].note = s.voices[v].note ∧
      t.voices[v].vel = s.voices[v].vel ∧ t.voices[v].chan = s.voices[v].chan ∧
      ∀ o : Fin 6,
        t.voices[v].ops[o].vel = s.voices[v].ops[o].vel ∧
        t.voices[v].ops[o].el = s.voices[v].ops[o].el ∧
        t.voices[v].ops[o].phase = s.voices[v].ops[o].phase ∧
        ((∀ x y a, i ≠ .setOpFreq x y a) →
          t.voices[v].ops[o].freq = s.voices[v].ops[o].freq ∧
          ((∀ a, i ≠ .setSampleRate a) → t.voices[v].ops[o].pinc = s.voices[v].ops[o].pinc)) ∧
        ((∀ x y a, i ≠ .setOpAmp x y a) → t.voices[v].ops[o].amp = s.voices[v].ops[o].amp) ∧
        ((∀ x y a, i ≠ .setOpModidx x y a) → t.voices[v].ops[o].modidx = s.voices[v].ops[o].modidx) ∧
        ((∀ x y a, i ≠ .setOpWave x y a) → t.voices[v].ops[o].wave = s.voices[v].ops[o].wave) ∧
        ((∀ x y a b c d, i ≠ .setEnvelope x y a b c d) →
          t.voices[v].ops[o].atk = s.voices[v].ops[o].atk ∧
          t.voices[v].ops[o].dcy = s.voices[v].ops[o].dcy ∧
          t.voices[v].ops[o].sus = s.voices[v].ops[o].sus ∧
          t.voices[v].ops[o].rel = s.voices[v].ops[o].rel) ∧
        ((∀ c a, i ≠ .setPitchBend c a) → t.voices[v].ops[o].pb = s.voices[v].ops[o].pb) ∧
        ((∀ c a, i ≠ .setModWheel c a) → t.voices[v].ops[o].mw = s.voices[v].ops[o].mw) ∧
        ((∀ n, i ≠ .noteOff n) → i ≠ .allNotesOff →
          t.voices[v].ops[o].es = s.voices[v].ops[o].es ∧
          t.voices[v].ops[o].et = s.voices[v].ops[o].et))

/-- No command sets an envelope level or a phase to a value of its own: after a command each is what it
was, or 0 in the voice a `NOTE_ON` started (rules R22, R23). -/
def Obligations.CommandsNeverSetLevelsOrPhases : Prop :=
  ∀ (i : Instr) (s t : State) (v : Fin 16) (o : Fin 6), exec i s = .next t →
    (t.voices[v].ops[o].el = s.voices[v].ops[o].el ∧
      t.voices[v].ops[o].phase = s.voices[v].ops[o].phase) ∨
    ((∃ n vel, i = .noteOn n vel) ∧ t.voices[v].ops[o].el = 0 ∧ t.voices[v].ops[o].phase = 0)

/-! ### Numbers and tables -/

/-- `rnd(n, d)` is an integer within half of `n / d`, a tie goes away from zero, and `rnd` is odd
(rule R10); `clamp` moves a value outside a range to the nearer end and no other (rule R11). -/
def Obligations.RoundingIsNearestTiesAway : Prop :=
  (∀ n d : Int, 0 < d →
    2 * |n - d * rnd n d| ≤ d ∧
    (2 * |n - d * rnd n d| = d → |n| ≤ d * |rnd n d|) ∧
    rnd (-n) d = -rnd n d) ∧
  ∀ v lo hi : Int, lo ≤ hi →
    (v < lo → clamp v lo hi = lo) ∧ (hi < v → clamp v lo hi = hi) ∧
    (Within v lo hi → clamp v lo hi = v)

/-- The increment of a frequency is rule R182's quotient, rounded once; at every legal rate that of a legal
frequency fits its register, and the time step is `1 / FS` rounded up (rules R22, R182, R184). Each entry
of the note table is the integer nearest to `440 * 2^((n - 69)/12) * 2^22` (rule R181), said without roots
by twelfth powers. -/
def Obligations.IncrementAndTimeStepFitTheirRegisters : Prop :=
  (∀ f fs : Int, pinc f fs = rnd (26353589 * f) (fs * 2 ^ 22)) ∧
  (∀ f fs : Int, Within f 0 qmax → Within fs 8000 192000 →
    Within (pinc f fs) 0 qmax ∧
    2 ^ 32 ≤ tstepOf fs * fs ∧ tstepOf fs * fs < 2 ^ 32 + fs ∧ Within (tstepOf fs) 1 (2 ^ 20 - 1)) ∧
  ∀ n : Fin 128,
    (2 * noteRom n - 1) ^ 12 * 2 ^ 69 < (2 * (440 * 2 ^ 22)) ^ 12 * 2 ^ n.val ∧
    (2 * (440 * 2 ^ 22)) ^ 12 * 2 ^ n.val < (2 * noteRom n + 1) ^ 12 * 2 ^ 69

/-- After every phase advance the phase is in `[0, TWO_PI_Q)`; unbent, the advance is `PINC`; a zero
increment or bend leaves a legal phase alone; nothing else changes (rules R185, R186). -/
def Obligations.PhaseAdvanceWraps : Prop :=
  ∀ o : Op,
    phaseAdvance o = { o with phase := (o.phase + rnd (o.pinc * o.pb) one) % twoPiQ } ∧
    Within (phaseAdvance o).phase 0 26353588 ∧
    (o.pb = one → (phaseAdvance o).phase = (o.phase + o.pinc) % twoPiQ) ∧
    (o.pinc = 0 ∨ o.pb = 0 → Within o.phase 0 26353588 → phaseAdvance o = o)

/-- The sine table has the symmetries of rule R211, for every index. -/
def Obligations.SineTableIsSymmetric : Prop :=
  (∀ k : Nat, k ≤ 1024 → sinRom (2048 - k) = sinRom k) ∧
  (∀ k : Nat, k ≤ 2047 → sinRom (2048 + k) = -sinRom k) ∧
  sinRom 1024 = 4194304 ∧ sinRom 2048 = 0 ∧ sinRom 3072 = -4194304 ∧ sinRom 2047 = 6434 ∧
  sinRom 1 = 6434 ∧ sinRom 4095 = -6434

/-- On a phase in `[0, TWO_PI_Q)` each waveform value is the one rule R102 gives, and it is in
`[-ONE, ONE]`. -/
def Obligations.WaveformsStayInUnitRange : Prop :=
  ∀ pe : Int, Within pe 0 26353588 →
    waveQ .sine pe = sinRom (pe * 4096 / 26353589).toNat ∧
    waveQ .sawtooth pe = rnd (2 * pe * 4194304) 26353589 - 4194304 ∧
    (2 * pe < 26353589 → waveQ .square pe = 4194304 ∧
      waveQ .triangle pe = rnd (4 * pe * 4194304) 26353589 - 4194304) ∧
    (26353589 ≤ 2 * pe → waveQ .square pe = -4194304 ∧
      waveQ .triangle pe = 3 * 4194304 - rnd (4 * pe * 4194304) 26353589) ∧
    ∀ w : Waveform, Within (waveQ w pe) (-one) one

/-- An operator's output is the waveform at the shifted phase times amplitude, level and velocity, rounded
once (rules R100, R101, R103). With registers in range it is in `[-ONE, ONE]`, and 0 if the amplitude, level
or velocity is 0; a voice of six such operators gives a sample in `[-6*ONE, 6*ONE]` through any routing row
(rules R103, R126). -/
def Obligations.OutputsStayInRange : Prop :=
  (∀ (o : Op) (modin pm pe : Int), pm = rnd (modin * o.modidx) 4194304 →
    pe = (o.phase + pm) % 26353589 →
    gen o modin = rnd (waveQ o.wave pe * o.amp * o.el * o.vel) (2 ^ 66)) ∧
  (∀ (fs : Int) (o : Op) (modin : Int), OpInv fs o → Within (gen o modin) (-one) one) ∧
  (∀ (o : Op) (modin : Int), (o.amp = 0 ∨ o.el = 0 ∨ o.vel = 0) → gen o modin = 0) ∧
  ∀ (fs : Int) (row : AlgRow) (ops : Vector Op 6), (∀ i : Fin 6, OpInv fs ops[i]) →
    Within (route row ops) (-(6 * one)) (6 * one)

/-! ### Envelope -/

/-- One envelope step: time advances and saturates, then the one rule of the current state runs; no other
register changes (rules R111 to R116). -/
def Obligations.EnvelopeStepFollowsItsState : Prop :=
  ∀ (ts : Int) (o : Op) (et : Int), et = min (o.et + ts) (2 ^ 64 - 1) →
    (o.es = .attack → o.atk * 2 ^ 10 ≤ et →
      envStep ts o = { o with el := one, es := .decay, et := 0 }) ∧
    (o.es = .attack → et < o.atk * 2 ^ 10 →
      envStep ts o = { o with et := et, el := rnd (et * one) (o.atk * 2 ^ 10) }) ∧
    (o.es = .decay → (o.sus = one ∨ o.dcy * 2 ^ 10 ≤ et) →
      envStep ts o = { o with et := et, el := o.sus, es := .sustain }) ∧
    (o.es = .decay → o.sus ≠ one → et < o.dcy * 2 ^ 10 →
      envStep ts o = { o with et := et, el := one - rnd (et * (one - o.sus)) (o.dcy * 2 ^ 10) }) ∧
    (o.es = .sustain → envStep ts o = { o with et := et, el := o.sus }) ∧
    (o.es = .release → (o.sus = 0 ∨ o.rel * 2 ^ 10 ≤ et) →
      envStep ts o = { o with et := et, el := 0, es := .off }) ∧
    (o.es = .release → o.sus ≠ 0 → et < o.rel * 2 ^ 10 →
      envStep ts o =
        { o with et := et, el := rnd (o.sus * (o.rel * 2 ^ 10 - et)) (o.rel * 2 ^ 10) }) ∧
    (o.es = .off → envStep ts o = { o with et := et, el := 0 })

/-- From one step to the next within a state, the level does not fall in ATTACK, does not rise in DECAY
and does not rise in RELEASE (rule R118). -/
def Obligations.EnvelopeLevelIsMonotone : Prop :=
  ∀ (fs ts : Int) (o : Op), OpInv fs o → 0 < ts →
    (o.es = .attack → (envStep ts o).es = .attack →
      (envStep ts o).el ≤ (envStep ts (envStep ts o)).el) ∧
    (o.es = .decay → (envStep ts o).es = .decay →
      (envStep ts (envStep ts o)).el ≤ (envStep ts o).el) ∧
    (o.es = .release → (envStep ts o).es = .release →
      (envStep ts (envStep ts o)).el ≤ (envStep ts o).el)

/-- An operator that starts ATTACK, or RELEASE with a sustain level above 0, at time 0 leaves that state
at exactly the `ceil(lim / TSTEP)`-th step, and is then OFF for good in the case of RELEASE (rules R112,
R115). -/
def Obligations.AttackAndReleaseLastTheirTimes : Prop :=
  ∀ (fs ts : Int) (o : Op) (n : Nat), OpInv fs o → 0 < ts → o.et = 0 →
    (o.es = .attack → (((envStep ts)^[n] o).es ≠ .attack ↔ ceilDiv (o.atk * 2 ^ 10) ts ≤ n)) ∧
    (o.es = .release → o.sus ≠ 0 →
      (((envStep ts)^[n] o).es = .off ↔ ceilDiv (o.rel * 2 ^ 10) ts ≤ n) ∧
      (((envStep ts)^[n] o).es = .release ↔ (n : Int) < ceilDiv (o.rel * 2 ^ 10) ts))

/-! ### Router -/

/-- The acyclicity check of a routing row is exact: it accepts a row when and only when no operator
reaches itself along the row's edges (rule R121). So the tables that configure this hardware are exactly
those with such rows, a carrier in each, and the five rows the source fixes (rules R121, R123, R124; spec/93
I2; operator 0 as the carrier is decision D20 of the spec). -/
def Obligations.AcyclicityCheckIsExact : Prop :=
  (∀ row : AlgRow, acyclic row = true ↔
    ∀ t : Fin 6, ¬ Relation.TransGen (fun a b => modulates row a b = true) t t) ∧
  ∀ rom : AlgRom, (configure rom).isSome = true ↔
    (∀ a : Fin 32, (rom a).car ≠ 0 ∧
      ∀ t : Fin 6, ¬ Relation.TransGen (fun m u => modulates (rom a) m u = true) t t) ∧
    rom 31 = { edge := 0x000000000, car := 0x3F } ∧
    ∀ a : Fin 32, (a = 22 ∨ a = 23 ∨ a = 29 ∨ a = 30) → rom a = { edge := 0x041041040, car := 0x01 }

/-- On an acyclic row the operator outputs are the one solution of the modulation equations of rule R122,
whatever the order of evaluation, and `Route` is the sum of the carriers' outputs. -/
def Obligations.RouterSolvesTheModulationEquations : Prop :=
  ∀ (row : AlgRow) (ops : Vector Op 6), acyclic row = true →
    (∀ t : Fin 6, opOut row ops 6 t = gen ops[t] (rnd (∑ m : Fin 6,
      if modulates row m t then opOut row ops 6 m * ops[m].modidx else 0) one)) ∧
    (∀ out : Fin 6 → Int,
      (∀ t : Fin 6, out t = gen ops[t] (rnd (∑ m : Fin 6,
        if modulates row m t then out m * ops[m].modidx else 0) one)) →
      out = opOut row ops 6) ∧
    route row ops = ∑ i : Fin 6, if isCarrier row i then opOut row ops 6 i else 0

/-- In every legal table row 31 gives the exact sum of the six unmodulated outputs, and rows 22, 23, 29
and 30 all give operator 0 modulated by the other five unmodulated operators (rules R122 to R124; that the
carrier is operator 0 is decision D20 of the spec). The table of this machine is `ALG_ROM_REF`, which is the
model's choice among the legal tables (rule R125; log 6); it is legal (rule R121; spec/93 I2), and the
hardware configured with it is this machine. -/
def Obligations.PinnedAlgorithmsAreAsTheSourceFixesThem : Prop :=
  legalAlgRom algRom = true ∧ configure algRom = some step ∧ coreOf algRom = some Sys2Proof.core ∧
  ∀ (rom : AlgRom) (ops : Vector Op 6), legalAlgRom rom = true →
    route (rom 31) ops = ∑ i : Fin 6, gen ops[i] 0 ∧
    route (rom 22) ops = gen ops[(0 : Fin 6)] (rnd (∑ m : Fin 6,
      if m = 0 then 0 else gen ops[m] 0 * ops[m].modidx) one) ∧
    route (rom 23) ops = route (rom 22) ops ∧ route (rom 29) ops = route (rom 22) ops ∧
    route (rom 30) ops = route (rom 22) ops

/-! ### One sample -/

/-- What a generated sample does with each voice: an inactive voice is left alone; an active one has its
six envelopes stepped, and if all are then OFF it is freed and skipped with its phases as they were;
otherwise its sample is routed, coloured and scaled from the stepped envelopes and the old phases, and
its phases advance (rules R140, R141, R143, R185). -/
def Obligations.EveryVoiceRunsThePipeline : Prop :=
  ∀ (rom : AlgRom) (p : FxParams) (s : State) (v : Fin 16),
    (s.voices[v].active = false →
      (afterFrame rom p s).voices[v] = s.voices[v] ∧ (voiceSample rom p s s.voices[v]).2 = none) ∧
    (s.voices[v].active = true → (∀ i : Fin 6, (envStep s.tstep s.voices[v].ops[i]).es = .off) →
      (afterFrame rom p s).voices[v] = { s.voices[v] with
        active := false, note := -1,
        ops := Vector.ofFn fun i : Fin 6 => envStep s.tstep s.voices[v].ops[i] } ∧
      (voiceSample rom p s s.voices[v]).2 = none) ∧
    (s.voices[v].active = true → ¬ (∀ i : Fin 6, (envStep s.tstep s.voices[v].ops[i]).es = .off) →
      (afterFrame rom p s).voices[v] = { s.voices[v] with
        ops := Vector.ofFn fun i : Fin 6 => phaseAdvance (envStep s.tstep s.voices[v].ops[i]) } ∧
      (voiceSample rom p s s.voices[v]).2 = some (rnd (fxWith p s
        (route (rom s.chans[s.voices[v].chan].alg)
          (Vector.ofFn fun i : Fin 6 => envStep s.tstep s.voices[v].ops[i])) * s.mvol) one))

/-- Stepping the sixteen voices one after the other, in any order, leaves the same state and the same two
sums as stepping them at once (rule R142). -/
def Obligations.VoiceOrderIsNotObservable : Prop :=
  ∀ (rom : AlgRom) (p : FxParams) (s : State) (order : List (Fin 16)),
    order.Perm (List.finRange 16) →
    stepVoicesInOrder rom p order s = (afterFrame rom p s, sideSum rom p s 0, sideSum rom p s 1)

/-- `Convert` scales, rounds and clamps, does not decrease, and its result is carried exactly by a signed
16-bit word whose top three bits are equal (rules R146, R206). -/
def Obligations.ConvertClampsToFourteenBits : Prop :=
  (∀ x : Int, convert x = clamp (rnd (x * 8191) one) (-8192) 8191 ∧
    Within (convert x) (-8192) 8191 ∧ (BitVec.ofInt 16 (convert x)).toInt = convert x ∧
    (BitVec.ofInt 16 (convert x)).getLsbD 15 = (BitVec.ofInt 16 (convert x)).getLsbD 14 ∧
    (BitVec.ofInt 16 (convert x)).getLsbD 14 = (BitVec.ofInt 16 (convert x)).getLsbD 13) ∧
  ∀ x y : Int, x ≤ y → convert x ≤ convert y

/-- A frame is the converted exact sum of the samples of the even voices and the converted exact sum of
those of the odd voices: even voices are heard left only and odd voices right only (rules R140, R144, R145,
R146). So a side whose voices are all inactive is 0, and so is the frame of a machine with no active voice,
and every frame at master volume 0 (rules R143, R148). -/
def Obligations.SilentSidesGiveZero : Prop :=
  ∀ (rom : AlgRom) (p : FxParams) (s : State),
    frame rom p s =
      (convert (∑ v : Fin 16,
        if v.val % 2 = 0 then (voiceSample rom p s s.voices[v]).2.getD 0 else 0),
       convert (∑ v : Fin 16,
        if v.val % 2 = 1 then (voiceSample rom p s s.voices[v]).2.getD 0 else 0)) ∧
    ((∀ v : Fin 16, v.val % 2 = 0 → s.voices[v].active = false) → (frame rom p s).1 = 0) ∧
    ((∀ v : Fin 16, v.val % 2 = 1 → s.voices[v].active = false) → (frame rom p s).2 = 0) ∧
    (anyActive s = false → frame rom p s = (0, 0)) ∧
    (s.mvol = 0 → frame rom p s = (0, 0))

/-! ### Effects -/

/-- The effects stage is distortion, then chorus, then reverb, each applied when its amount is above 0 and
each product rounded at once (rules R190 to R193); the chorus factor is the sine at the phase one sample of
`CHORUS_FREQ` gives (rule R192). With the three amounts 0 the stage is the identity whatever the open
constants; for all amounts it maps 0 to 0 and is odd, for every odd curve (rule R194). -/
def Obligations.EffectsAreOddAndIdentityAtZero : Prop :=
  (∀ (p : FxParams) (s : State) (x x1 x2 : Int),
    x1 = (if 0 < s.dist then
      p.tanhQ (rnd (x * (2 ^ 22 + rnd (s.dist * p.gainMult) (2 ^ 22))) (2 ^ 22)) else x) →
    x2 = (if 0 < s.chorus then
      rnd (x1 * (2 ^ 22 + rnd (rnd (s.chorusLfo * s.chorus) (2 ^ 22) * p.chorusDepth) (2 ^ 22)))
        (2 ^ 22) else x1) →
    fxWith p s x = if 0 < s.reverb then
      rnd (x2 * (2 ^ 22 + rnd (s.reverb * p.reverbGain) (2 ^ 22))) (2 ^ 22) else x2) ∧
  (∀ (p : FxParams) (fs : Int), chorusLfoWith p fs =
    sinRom (rnd (26353589 * p.chorusFreq) (fs * 2 ^ 22) % 26353589 * 4096 / 26353589).toNat) ∧
  (∀ fs : Int, chorusLfoOf fs = chorusLfoWith Config.fx fs) ∧
  (∀ (p : FxParams) (s : State) (x : Int), s.dist = 0 → s.chorus = 0 → s.reverb = 0 →
    fxWith p s x = x) ∧
  ∀ (p : FxParams) (s : State), (∀ x, p.tanhQ (-x) = -p.tanhQ x) →
    fxWith p s 0 = 0 ∧ ∀ x : Int, fxWith p s (-x) = -fxWith p s x

/-- The open distortion curve has the five properties of rule R191, and the model's free values reach
every curve that has them, so nothing more is assumed of it (log 10). -/
def Obligations.DistortionCurveIsFree : Prop :=
  (∀ raw : Nat → Nat, curve raw 0 = 0 ∧ (∀ x, curve raw (-x) = -curve raw x) ∧
    (∀ x y, x ≤ y → curve raw x ≤ curve raw y) ∧ ∀ x, Within (curve raw x) (-one) one) ∧
  ∀ f : Int → Int, f 0 = 0 → (∀ x, f (-x) = -f x) → (∀ x y, x ≤ y → f x ≤ f y) →
    (∀ x, Within (f x) (-one) one) → ∃ raw : Nat → Nat, curve raw = f

/-! ### The tick and the stream -/

/-- `TICK`: idle with no batch in progress unless `RUN` and an active voice start one; otherwise one frame
is generated and pushed and the batch counter falls by one (rule R196). It is so for every routing table and
effect parameters, and `tick` is that of this machine. -/
def Obligations.TickRunsTheBatchSequencer : Prop :=
  (∀ s : State, perform .tick s = .next (tick s) ∧ tick s = tickWith algRom Config.fx s) ∧
  (∀ (rom : AlgRom) (s : State), performWith rom .tick s = .next (tickWith rom Config.fx s)) ∧
  ∀ (rom : AlgRom) (p : FxParams) (s : State),
    (s.batchRem = 0 → ¬ (s.run = true ∧ ∃ v : Fin 16, s.voices[v].active = true) →
      tickWith rom p s = s) ∧
    (s.batchRem = 0 → s.run = true → (∃ v : Fin 16, s.voices[v].active = true) →
      tickWith rom p s = fifoPush (frame rom p s).1 (frame rom p s).2
        { afterFrame rom p s with batchRem := 255 }) ∧
    (0 < s.batchRem →
      tickWith rom p s = fifoPush (frame rom p s).1 (frame rom p s).2
        { afterFrame rom p s with batchRem := s.batchRem - 1 })

/-- A `TICK` changes no parameter of an operator, no velocity or channel of a voice, no channel register,
no template row and no global register but `BATCH_REM` and `OVERRUN` (rule R141, point e). -/
def Obligations.TickKeepsEveryParameter : Prop :=
  ∀ (rom : AlgRom) (p : FxParams) (s t : State), tickWith rom p s = t →
    t = { s with voices := t.voices, batchRem := t.batchRem, overrun := t.overrun, fifo := t.fifo } ∧
    ∀ v : Fin 16, t.voices[v].vel = s.voices[v].vel ∧ t.voices[v].chan = s.voices[v].chan ∧
      ∀ i : Fin 6, t.voices[v].ops[i] = { s.voices[v].ops[i] with
        es := t.voices[v].ops[i].es, el := t.voices[v].ops[i].el, et := t.voices[v].ops[i].et,
        phase := t.voices[v].ops[i].phase }

/-- A batch in progress runs to its end whatever `RUN` says: after as many ticks as `BATCH_REM` holds it
is 0, and each of them pushed one frame behind what was queued, if there was room (rules R196, R198). It is
so for every routing table and effect parameters, those of `tick` among them. -/
def Obligations.BatchRunsToItsEnd : Prop :=
  ∀ (rom : AlgRom) (p : FxParams) (n : Nat) (s t : State),
    s.batchRem = n → s.fifo.length + 2 * n ≤ 1024 → (tickWith rom p)^[n] s = t →
    t.batchRem = 0 ∧ t.run = s.run ∧ t.overrun = s.overrun ∧
    t.fifo.length = s.fifo.length + 2 * n ∧ s.fifo <+: t.fifo

/-- A frame enters the FIFO whole, left word then right, behind what is queued, or not at all, and then
`OVERRUN` is set; nothing else changes (rule R199). -/
def Obligations.FramesEnterTheFifoWholeOrNotAtAll : Prop :=
  ∀ (l r : Int) (s : State),
    (2 ≤ 1024 - avail s → fifoPush l r s =
      { s with fifo := s.fifo ++ [BitVec.ofInt 16 l, BitVec.ofInt 16 r] }) ∧
    (¬ 2 ≤ 1024 - avail s → fifoPush l r s = { s with overrun := true })

/-- A full FIFO never touches synthesis: whatever the FIFO and `OVERRUN` hold, a tick leaves every other
register the same (rule R200). -/
def Obligations.OverrunNeverAffectsSynthesis : Prop :=
  ∀ (rom : AlgRom) (p : FxParams) (s t u : State) (q : List StreamWord) (b : Bool),
    tickWith rom p s = t → tickWith rom p { s with fifo := q, overrun := b } = u →
    u = { t with fifo := u.fifo, overrun := u.overrun }

/-- Words leave in the order they were pushed: an event other than a reset only adds zero or two words at
the end of the sequence of words delivered and queued (rules R68, R205), on this machine and on the machine
with any routing table. That the words delivered are recorded is the model's choice (log 4). -/
def Obligations.StreamKeepsPushOrder : Prop :=
  ∀ (e : Event) (s t : State), e ≠ .reset →
    (perform e s = .next t ∨ ∃ rom : AlgRom, performWith rom e s = .next t) →
    ∃ new : List StreamWord, t.delivered ++ t.fifo = (s.delivered ++ s.fifo) ++ new ∧
      (new = [] ∨ (e = .tick ∧ new.length = 2))

/-- The status outputs: `AVAIL` counts words, `HAS_DATA` is 1 exactly with a word queued, `ANY_ACTIVE`
exactly with an active voice, `CH_ACTIVE[c]` exactly with an active voice on `c`; all are 0 after reset
(rules R34, R45). -/
def Obligations.StatusOutputsReadTheState : Prop :=
  (∀ s : State, avail s = s.fifo.length ∧ (hasData s = true ↔ s.fifo ≠ []) ∧
    (anyActive s = true ↔ ∃ v : Fin 16, s.voices[v].active = true) ∧
    ∀ c : Fin 8, chActive s c = true ↔
      ∃ v : Fin 16, s.voices[v].active = true ∧ s.voices[v].chan = c) ∧
  avail State.reset = 0 ∧ hasData State.reset = false ∧ anyActive State.reset = false ∧
  State.reset.overrun = false ∧ ∀ c : Fin 8, chActive State.reset c = false

/-! ### Invariants -/

/-- The invariant of rule R52 holds after reset. -/
def Obligations.LegalRangesHoldAtReset : Prop := State.reset.Inv

/-- Every step keeps the invariant of rule R52, from every state that has it: legal ranges, free voices
without a note, derived registers in step with what they derive from, the FIFO within its depth. It is so
for this machine, and for the hardware configured with any legal routing table (rule R125). -/
def Obligations.EveryStepKeepsLegalRanges : Prop :=
  (∀ s t : State, s.Inv → step s = .next t → t.Inv) ∧
  ∀ rom stepOf, configure rom = some stepOf →
    ∀ s t : State, s.Inv → stepOf s = .next t → t.Inv

/-- Every step keeps the stream made of whole frames: the words popped and queued since reset are even in
number, so the FIFO holds an even number of words whenever the sink has popped an even number (rules R47,
R63). It is so for this machine, and for the hardware configured with any legal routing table (rule
R125). The words popped are counted in `delivered`, the model's own field (log 4). -/
def Obligations.EveryStepKeepsFrameAlignment : Prop :=
  State.reset.FrameAligned ∧
  (∀ s t : State, s.FrameAligned → step s = .next t → t.FrameAligned) ∧
  ∀ rom stepOf, configure rom = some stepOf →
    ∀ s t : State, s.FrameAligned → stepOf s = .next t → t.FrameAligned

/-- The modulation wheel has no effect on any sample: two machines that differ only in modulation wheel
registers still differ only there after any step, and so deliver the same words (rule R24). It is so for
this machine, and for the hardware configured with any legal routing table (rule R125). -/
def Obligations.ModulationWheelIsInaudible : Prop :=
  (∀ s t u : State, step s = .next t → step (eraseWheels s) = .next u →
    eraseWheels u = eraseWheels t) ∧
  ∀ rom stepOf, configure rom = some stepOf →
    ∀ s t u : State, stepOf s = .next t → stepOf (eraseWheels s) = .next u →
      eraseWheels u = eraseWheels t

/-- What a free voice holds cannot be observed: two machines that differ only in the registers of their
free voices still differ only there after any step, so a write to a free voice is never heard (rules R150,
R241). It is so for this machine, and for the hardware configured with any legal routing table (rule
R125). -/
def Obligations.FreeVoicesAreUnobservable : Prop :=
  (∀ s t u : State, step s = .next t → step (eraseFree s) = .next u → eraseFree u = eraseFree t) ∧
  ∀ rom stepOf, configure rom = some stepOf →
    ∀ s t u : State, stepOf s = .next t → stepOf (eraseFree s) = .next u → eraseFree u = eraseFree t
end

