-- ==== Sys2Proof/Laws/Arith.lean ====
section
/-! SUPPORT. The facts about rounding and clamping that every range argument uses (rules R10, R11). -/

namespace Sys2Proof.Machine

theorem rnd_nonneg_eq {n d : Int} (h : 0 ≤ n) : rnd n d = (2 * n + d) / (2 * d) := if_pos h

/-- A quotient bound: `rnd` of something at most `k * d` is at most `k`. -/
theorem rnd_le {n d k : Int} (hd : 0 < d) (h : n ≤ k * d) (hk : 0 ≤ k) : rnd n d ≤ k := by
  unfold rnd
  split
  · have : (2 * n + d) / (2 * d) < k + 1 := Int.ediv_lt_of_lt_mul (by omega) (by nlinarith)
    omega
  · have : 0 ≤ (2 * (-n) + d) / (2 * d) := Int.ediv_nonneg (by omega) (by omega)
    omega

/-- `rnd` is odd (rule R10). -/
theorem rnd_neg (n d : Int) (hd : 0 < d) : rnd (-n) d = -rnd n d := by
  unfold rnd
  rcases lt_trichotomy n 0 with h | h | h
  · rw [if_pos (by omega), if_neg (by omega)]; simp
  · subst h
    have : d / (2 * d) = 0 := Int.ediv_eq_zero_of_lt (by omega) (by omega)
    simp [this]
  · rw [if_neg (by omega), if_pos (by omega)]; simp

theorem rnd_nonneg {n d : Int} (hn : 0 ≤ n) (hd : 0 < d) : 0 ≤ rnd n d := by
  rw [rnd_nonneg_eq hn]; exact Int.ediv_nonneg (by omega) (by omega)

/-- The lower companion of `rnd_le`. -/
theorem neg_le_rnd {n d k : Int} (hd : 0 < d) (h : -(k * d) ≤ n) (hk : 0 ≤ k) : -k ≤ rnd n d := by
  have := rnd_le (n := -n) hd (by omega) hk
  rw [rnd_neg _ _ hd] at this
  omega

/-- An exact multiple is not rounded. -/
@[simp] theorem rnd_mul_self (n d : Int) (hd : 0 < d) : rnd (n * d) d = n := by
  have key : ∀ m : Int, 0 ≤ m → rnd (m * d) d = m := fun m hm => by
    rw [rnd_nonneg_eq (by positivity)]
    have : 2 * (m * d) + d = d + m * (2 * d) := by ring
    rw [this, Int.add_mul_ediv_right _ _ (by omega), Int.ediv_eq_zero_of_lt (by omega) (by omega)]
    omega
  rcases le_total 0 n with h | h
  · exact key n h
  · have := key (-n) (by omega)
    rw [show -n * d = -(n * d) by ring, rnd_neg _ _ hd] at this
    omega

@[simp] theorem rnd_zero (d : Int) (hd : 0 < d) : rnd 0 d = 0 := by
  simpa using rnd_mul_self 0 d hd

/-- `rnd` does not decrease in its first argument (rule R118). -/
theorem rnd_mono {a b d : Int} (hd : 0 < d) (h : a ≤ b) : rnd a d ≤ rnd b d := by
  rcases le_total 0 a with ha | ha
  · rw [rnd_nonneg_eq ha, rnd_nonneg_eq (ha.trans h)]
    exact Int.ediv_le_ediv (by omega) (by omega)
  · rcases le_total 0 b with hb | hb
    · have h1 : rnd a d ≤ 0 := rnd_le hd (by omega) le_rfl
      exact h1.trans (rnd_nonneg hb hd)
    · have h1 : rnd (-b) d ≤ rnd (-a) d := by
        rw [rnd_nonneg_eq (by omega), rnd_nonneg_eq (by omega)]
        exact Int.ediv_le_ediv (by omega) (by omega)
      rw [rnd_neg _ _ hd, rnd_neg _ _ hd] at h1
      omega

/-- A clamped value lies in the range. -/
theorem clamp_within {v lo hi : Int} (h : lo ≤ hi) : lo ≤ clamp v lo hi ∧ clamp v lo hi ≤ hi := by
  unfold clamp; split
  · omega
  · split <;> omega

/-- A value in the range is not changed. -/
theorem clamp_of_within {v lo hi : Int} (h1 : lo ≤ v) (h2 : v ≤ hi) : clamp v lo hi = v := by
  unfold clamp; rw [if_neg (by omega), if_neg (by omega)]

/-- Clamping twice is clamping once (rule R65). -/
theorem clamp_clamp {v lo hi : Int} (h : lo ≤ hi) : clamp (clamp v lo hi) lo hi = clamp v lo hi :=
  clamp_of_within (clamp_within h).1 (clamp_within h).2

/-- `ceilDiv a b` is the least integer whose product with `b` reaches `a` (rule R11). -/
theorem ceilDiv_spec {a b : Int} (hb : 0 < b) : a ≤ ceilDiv a b * b ∧ ceilDiv a b * b < a + b := by
  have h1 : b * ((a + b - 1) / b) ≤ a + b - 1 := Int.mul_ediv_self_le (by omega)
  have h2 := Int.lt_mul_ediv_self_add (x := a + b - 1) (k := b) hb
  rw [ceilDiv, mul_comm]
  omega

@[simp] theorem mulQ_one (a : Int) : mulQ a Config.one = a := rnd_mul_self a _ (by decide)

@[simp] theorem mulQ_zero_left (a : Int) : mulQ 0 a = 0 := by
  simp [mulQ]

@[simp] theorem mulQ_zero_right (a : Int) : mulQ a 0 = 0 := by
  simp [mulQ]

theorem mulQ_neg_left (a b : Int) : mulQ (-a) b = -mulQ a b := by
  rw [mulQ, neg_mul, rnd_neg _ _ (by decide), mulQ]

theorem mulQ_nonneg {a b : Int} (ha : 0 ≤ a) (hb : 0 ≤ b) : 0 ≤ mulQ a b :=
  rnd_nonneg (by positivity) (by decide)

/-- A value reduced by a positive modulus (rule R11). -/
theorem emod_within (a : Int) {m : Int} (hm : 0 < m) : 0 ≤ a % m ∧ a % m ≤ m - 1 := by
  have h1 := Int.emod_nonneg a (ne_of_gt hm)
  have h2 := Int.emod_lt_of_pos a hm
  omega

/-- A sum of zeros is zero. -/
theorem sumOver_zero {n : Nat} {f : Fin n → Int} (h : ∀ i, f i = 0) : sumOver n f = 0 := by
  have : f = fun _ => 0 := funext h
  simp [sumOver, this]

theorem sumOver_congr {n : Nat} {f g : Fin n → Int} (h : ∀ i, f i = g i) :
    sumOver n f = sumOver n g := by
  rw [funext h]

/-- `sumOver` is the sum over all indices. -/
theorem sumOver_eq_sum {n : Nat} (f : Fin n → Int) : sumOver n f = ∑ i, f i := by
  rw [sumOver, ← List.ofFn_eq_map, List.sum_ofFn]

end Sys2Proof.Machine
end

