-- ==== Sys2Proof/Laws/Decode.lean ====
section
/-! SUPPORT. The fields of a word put together are the fields it was put together from (rule R80). -/

namespace Sys2Proof

/-- The value of two bit strings put together. -/
theorem toNat_append_add {m n : Nat} (x : BitVec m) (y : BitVec n) :
    (x ++ y).toNat = x.toNat * 2 ^ n + y.toNat := by
  rw [BitVec.toNat_append, ← Nat.shiftLeft_add_eq_or_of_lt y.isLt, Nat.shiftLeft_eq]

section
variable (opc : BitVec 8) (idx : IdxField) (opi : OpiField) (a0 a1 a2 a3 : Arg)

/-- The numeric value of a word put together from its fields (rule R94). -/
theorem fieldsWord_toNat : (fieldsWord opc idx opi a0 a1 a2 a3).toNat =
    (((((opc.toNat * 32 + idx.toNat) * 8 + opi.toNat) * 2 ^ 48 + a0.toNat) * 2 ^ 48 + a1.toNat) * 2 ^ 48
      + a2.toNat) * 2 ^ 48 + a3.toNat := by
  simp only [fieldsWord, toNat_append_add]
  ring

@[simp] theorem opcField_fieldsWord : opcField (fieldsWord opc idx opi a0 a1 a2 a3) = opc := by
  apply BitVec.eq_of_toNat_eq
  have h0 := a0.isLt; have h1 := a1.isLt; have h2 := a2.isLt; have h3 := a3.isLt
  have h4 := idx.isLt; have h5 := opi.isLt; have h6 := opc.isLt
  rw [opcField, BitVec.extractLsb'_toNat, fieldsWord_toNat, Nat.shiftRight_eq_div_pow]
  omega

@[simp] theorem idxField_fieldsWord : idxField (fieldsWord opc idx opi a0 a1 a2 a3) = idx := by
  apply BitVec.eq_of_toNat_eq
  have h0 := a0.isLt; have h1 := a1.isLt; have h2 := a2.isLt; have h3 := a3.isLt
  have h4 := idx.isLt; have h5 := opi.isLt; have h6 := opc.isLt
  rw [idxField, BitVec.extractLsb'_toNat, fieldsWord_toNat, Nat.shiftRight_eq_div_pow]
  omega

@[simp] theorem opiField_fieldsWord : opiField (fieldsWord opc idx opi a0 a1 a2 a3) = opi := by
  apply BitVec.eq_of_toNat_eq
  have h0 := a0.isLt; have h1 := a1.isLt; have h2 := a2.isLt; have h3 := a3.isLt
  have h4 := idx.isLt; have h5 := opi.isLt; have h6 := opc.isLt
  rw [opiField, BitVec.extractLsb'_toNat, fieldsWord_toNat, Nat.shiftRight_eq_div_pow]
  omega

@[simp] theorem a0Field_fieldsWord : a0Field (fieldsWord opc idx opi a0 a1 a2 a3) = a0 := by
  apply BitVec.eq_of_toNat_eq
  have h0 := a0.isLt; have h1 := a1.isLt; have h2 := a2.isLt; have h3 := a3.isLt
  rw [a0Field, BitVec.extractLsb'_toNat, fieldsWord_toNat, Nat.shiftRight_eq_div_pow]
  omega

@[simp] theorem a1Field_fieldsWord : a1Field (fieldsWord opc idx opi a0 a1 a2 a3) = a1 := by
  apply BitVec.eq_of_toNat_eq
  have h1 := a1.isLt; have h2 := a2.isLt; have h3 := a3.isLt
  rw [a1Field, BitVec.extractLsb'_toNat, fieldsWord_toNat, Nat.shiftRight_eq_div_pow]
  omega

@[simp] theorem a2Field_fieldsWord : a2Field (fieldsWord opc idx opi a0 a1 a2 a3) = a2 := by
  apply BitVec.eq_of_toNat_eq
  have h2 := a2.isLt; have h3 := a3.isLt
  rw [a2Field, BitVec.extractLsb'_toNat, fieldsWord_toNat, Nat.shiftRight_eq_div_pow]
  omega

@[simp] theorem a3Field_fieldsWord : a3Field (fieldsWord opc idx opi a0 a1 a2 a3) = a3 := by
  apply BitVec.eq_of_toNat_eq
  have h3 := a3.isLt
  rw [a3Field, BitVec.extractLsb'_toNat, fieldsWord_toNat, Nat.shiftRight_eq_div_pow]
  omega

end

/-- A word is put together from its own fields (rule R80). -/
theorem fieldsWord_fields (w : CommandWord) :
    fieldsWord (opcField w) (idxField w) (opiField w) (a0Field w) (a1Field w) (a2Field w) (a3Field w) = w := by
  apply BitVec.eq_of_toNat_eq
  rw [fieldsWord_toNat]
  simp only [opcField, idxField, opiField, a0Field, a1Field, a2Field, a3Field, BitVec.extractLsb'_toNat,
    Nat.shiftRight_eq_div_pow]
  have := w.isLt
  omega

/-- Masking a word masks each of its fields. -/
theorem and_fieldsWord (w : CommandWord) (opc : BitVec 8) (idx : IdxField) (opi : OpiField)
    (a0 a1 a2 a3 : Arg) :
    w &&& fieldsWord opc idx opi a0 a1 a2 a3 =
      fieldsWord (opcField w &&& opc) (idxField w &&& idx) (opiField w &&& opi) (a0Field w &&& a0)
        (a1Field w &&& a1) (a2Field w &&& a2) (a3Field w &&& a3) := by
  rw [← fieldsWord_fields (w &&& fieldsWord opc idx opi a0 a1 a2 a3)]
  have h1 := opcField_fieldsWord opc idx opi a0 a1 a2 a3
  have h2 := idxField_fieldsWord opc idx opi a0 a1 a2 a3
  have h3 := opiField_fieldsWord opc idx opi a0 a1 a2 a3
  have h4 := a0Field_fieldsWord opc idx opi a0 a1 a2 a3
  have h5 := a1Field_fieldsWord opc idx opi a0 a1 a2 a3
  have h6 := a2Field_fieldsWord opc idx opi a0 a1 a2 a3
  have h7 := a3Field_fieldsWord opc idx opi a0 a1 a2 a3
  simp only [opcField, idxField, opiField, a0Field, a1Field, a2Field, a3Field,
    BitVec.extractLsb'_and] at *
  simp only [h1, h2, h3, h4, h5, h6, h7]

end Sys2Proof
end

