-- ==== Sys2Proof/Laws/State.lean ====
section
/-! SUPPORT. The small lemmas of the state's updates: reading an entry of a bank after an update, and one
lemma per field per named update. -/

namespace Sys2Proof.Machine

variable {α : Type} {n : Nat}

/-- Reading a bank after one entry was updated. -/
theorem getElem_updAt (i j : Fin n) (f : α → α) (v : Vector α n) :
    (updAt i f v)[j] = if i = j then f v[i] else v[j] := by
  simp [updAt, Vector.getElem_set, Fin.ext_iff]

@[simp] theorem getElem_updAt_self (i : Fin n) (f : α → α) (v : Vector α n) :
    (updAt i f v)[i] = f v[i] := by
  rw [getElem_updAt, if_pos rfl]

theorem getElem_updAt_ne {i j : Fin n} (h : i ≠ j) (f : α → α) (v : Vector α n) :
    (updAt i f v)[j] = v[j] := by
  rw [getElem_updAt, if_neg h]

/-- Reading a bank after every entry was updated. -/
@[simp] theorem getElem_each (i : Fin n) (f : α → α) (v : Vector α n) : (each f v)[i] = f v[i] := by
  simp [each]

/-- Two banks with the same entries are equal. -/
theorem bank_ext {v w : Vector α n} (h : ∀ i : Fin n, v[i] = w[i]) : v = w :=
  Vector.ext fun i hi => h ⟨i, hi⟩

theorem each_eq_self {f : α → α} {v : Vector α n} (h : ∀ i : Fin n, f v[i] = v[i]) : each f v = v :=
  bank_ext fun i => by rw [getElem_each, h]

theorem updAt_updAt (i : Fin n) (f g : α → α) (v : Vector α n) :
    updAt i g (updAt i f v) = updAt i (fun a => g (f a)) v :=
  bank_ext fun j => by
    by_cases h : i = j
    · subst h; simp only [getElem_updAt_self]
    · rw [getElem_updAt_ne h, getElem_updAt_ne h, getElem_updAt_ne h]

section fields
variable (s : State)

@[simp] theorem updVoice_voices (v : Fin 16) (f : Voice → Voice) : (s.updVoice v f).voices = updAt v f s.voices := rfl
@[simp] theorem updVoice_chans (v : Fin 16) (f : Voice → Voice) : (s.updVoice v f).chans = s.chans := rfl
@[simp] theorem updVoice_tpl (v : Fin 16) (f : Voice → Voice) : (s.updVoice v f).tpl = s.tpl := rfl
@[simp] theorem updVoice_fs (v : Fin 16) (f : Voice → Voice) : (s.updVoice v f).fs = s.fs := rfl
@[simp] theorem updVoice_tstep (v : Fin 16) (f : Voice → Voice) : (s.updVoice v f).tstep = s.tstep := rfl
@[simp] theorem updVoice_mvol (v : Fin 16) (f : Voice → Voice) : (s.updVoice v f).mvol = s.mvol := rfl
@[simp] theorem updVoice_reverb (v : Fin 16) (f : Voice → Voice) : (s.updVoice v f).reverb = s.reverb := rfl
@[simp] theorem updVoice_chorus (v : Fin 16) (f : Voice → Voice) : (s.updVoice v f).chorus = s.chorus := rfl
@[simp] theorem updVoice_dist (v : Fin 16) (f : Voice → Voice) : (s.updVoice v f).dist = s.dist := rfl
@[simp] theorem updVoice_chorusLfo (v : Fin 16) (f : Voice → Voice) : (s.updVoice v f).chorusLfo = s.chorusLfo := rfl
@[simp] theorem updVoice_curChan (v : Fin 16) (f : Voice → Voice) : (s.updVoice v f).curChan = s.curChan := rfl
@[simp] theorem updVoice_run (v : Fin 16) (f : Voice → Voice) : (s.updVoice v f).run = s.run := rfl
@[simp] theorem updVoice_batchRem (v : Fin 16) (f : Voice → Voice) : (s.updVoice v f).batchRem = s.batchRem := rfl
@[simp] theorem updVoice_overrun (v : Fin 16) (f : Voice → Voice) : (s.updVoice v f).overrun = s.overrun := rfl
@[simp] theorem updVoice_fifo (v : Fin 16) (f : Voice → Voice) : (s.updVoice v f).fifo = s.fifo := rfl
@[simp] theorem updVoice_pending (v : Fin 16) (f : Voice → Voice) : (s.updVoice v f).pending = s.pending := rfl
@[simp] theorem updVoice_delivered (v : Fin 16) (f : Voice → Voice) : (s.updVoice v f).delivered = s.delivered := rfl

@[simp] theorem eachVoice_voices (f : Voice → Voice) : (s.eachVoice f).voices = each f s.voices := rfl
@[simp] theorem eachVoice_chans (f : Voice → Voice) : (s.eachVoice f).chans = s.chans := rfl
@[simp] theorem eachVoice_tpl (f : Voice → Voice) : (s.eachVoice f).tpl = s.tpl := rfl
@[simp] theorem eachVoice_fs (f : Voice → Voice) : (s.eachVoice f).fs = s.fs := rfl
@[simp] theorem eachVoice_tstep (f : Voice → Voice) : (s.eachVoice f).tstep = s.tstep := rfl
@[simp] theorem eachVoice_mvol (f : Voice → Voice) : (s.eachVoice f).mvol = s.mvol := rfl
@[simp] theorem eachVoice_reverb (f : Voice → Voice) : (s.eachVoice f).reverb = s.reverb := rfl
@[simp] theorem eachVoice_chorus (f : Voice → Voice) : (s.eachVoice f).chorus = s.chorus := rfl
@[simp] theorem eachVoice_dist (f : Voice → Voice) : (s.eachVoice f).dist = s.dist := rfl
@[simp] theorem eachVoice_chorusLfo (f : Voice → Voice) : (s.eachVoice f).chorusLfo = s.chorusLfo := rfl
@[simp] theorem eachVoice_curChan (f : Voice → Voice) : (s.eachVoice f).curChan = s.curChan := rfl
@[simp] theorem eachVoice_run (f : Voice → Voice) : (s.eachVoice f).run = s.run := rfl
@[simp] theorem eachVoice_batchRem (f : Voice → Voice) : (s.eachVoice f).batchRem = s.batchRem := rfl
@[simp] theorem eachVoice_overrun (f : Voice → Voice) : (s.eachVoice f).overrun = s.overrun := rfl
@[simp] theorem eachVoice_fifo (f : Voice → Voice) : (s.eachVoice f).fifo = s.fifo := rfl
@[simp] theorem eachVoice_pending (f : Voice → Voice) : (s.eachVoice f).pending = s.pending := rfl
@[simp] theorem eachVoice_delivered (f : Voice → Voice) : (s.eachVoice f).delivered = s.delivered := rfl

@[simp] theorem updOp_voices (v : Fin 16) (i : Fin 6) (f : Op → Op) : (s.updOp v i f).voices = updAt v (fun vc => { vc with ops := updAt i f vc.ops }) s.voices := rfl
@[simp] theorem updOp_chans (v : Fin 16) (i : Fin 6) (f : Op → Op) : (s.updOp v i f).chans = s.chans := rfl
@[simp] theorem updOp_tpl (v : Fin 16) (i : Fin 6) (f : Op → Op) : (s.updOp v i f).tpl = s.tpl := rfl
@[simp] theorem updOp_fs (v : Fin 16) (i : Fin 6) (f : Op → Op) : (s.updOp v i f).fs = s.fs := rfl
@[simp] theorem updOp_tstep (v : Fin 16) (i : Fin 6) (f : Op → Op) : (s.updOp v i f).tstep = s.tstep := rfl
@[simp] theorem updOp_mvol (v : Fin 16) (i : Fin 6) (f : Op → Op) : (s.updOp v i f).mvol = s.mvol := rfl
@[simp] theorem updOp_reverb (v : Fin 16) (i : Fin 6) (f : Op → Op) : (s.updOp v i f).reverb = s.reverb := rfl
@[simp] theorem updOp_chorus (v : Fin 16) (i : Fin 6) (f : Op → Op) : (s.updOp v i f).chorus = s.chorus := rfl
@[simp] theorem updOp_dist (v : Fin 16) (i : Fin 6) (f : Op → Op) : (s.updOp v i f).dist = s.dist := rfl
@[simp] theorem updOp_chorusLfo (v : Fin 16) (i : Fin 6) (f : Op → Op) : (s.updOp v i f).chorusLfo = s.chorusLfo := rfl
@[simp] theorem updOp_curChan (v : Fin 16) (i : Fin 6) (f : Op → Op) : (s.updOp v i f).curChan = s.curChan := rfl
@[simp] theorem updOp_run (v : Fin 16) (i : Fin 6) (f : Op → Op) : (s.updOp v i f).run = s.run := rfl
@[simp] theorem updOp_batchRem (v : Fin 16) (i : Fin 6) (f : Op → Op) : (s.updOp v i f).batchRem = s.batchRem := rfl
@[simp] theorem updOp_overrun (v : Fin 16) (i : Fin 6) (f : Op → Op) : (s.updOp v i f).overrun = s.overrun := rfl
@[simp] theorem updOp_fifo (v : Fin 16) (i : Fin 6) (f : Op → Op) : (s.updOp v i f).fifo = s.fifo := rfl
@[simp] theorem updOp_pending (v : Fin 16) (i : Fin 6) (f : Op → Op) : (s.updOp v i f).pending = s.pending := rfl
@[simp] theorem updOp_delivered (v : Fin 16) (i : Fin 6) (f : Op → Op) : (s.updOp v i f).delivered = s.delivered := rfl

@[simp] theorem updChan_voices (c : Fin 8) (f : Channel → Channel) : (s.updChan c f).voices = s.voices := rfl
@[simp] theorem updChan_chans (c : Fin 8) (f : Channel → Channel) : (s.updChan c f).chans = updAt c f s.chans := rfl
@[simp] theorem updChan_tpl (c : Fin 8) (f : Channel → Channel) : (s.updChan c f).tpl = s.tpl := rfl
@[simp] theorem updChan_fs (c : Fin 8) (f : Channel → Channel) : (s.updChan c f).fs = s.fs := rfl
@[simp] theorem updChan_tstep (c : Fin 8) (f : Channel → Channel) : (s.updChan c f).tstep = s.tstep := rfl
@[simp] theorem updChan_mvol (c : Fin 8) (f : Channel → Channel) : (s.updChan c f).mvol = s.mvol := rfl
@[simp] theorem updChan_reverb (c : Fin 8) (f : Channel → Channel) : (s.updChan c f).reverb = s.reverb := rfl
@[simp] theorem updChan_chorus (c : Fin 8) (f : Channel → Channel) : (s.updChan c f).chorus = s.chorus := rfl
@[simp] theorem updChan_dist (c : Fin 8) (f : Channel → Channel) : (s.updChan c f).dist = s.dist := rfl
@[simp] theorem updChan_chorusLfo (c : Fin 8) (f : Channel → Channel) : (s.updChan c f).chorusLfo = s.chorusLfo := rfl
@[simp] theorem updChan_curChan (c : Fin 8) (f : Channel → Channel) : (s.updChan c f).curChan = s.curChan := rfl
@[simp] theorem updChan_run (c : Fin 8) (f : Channel → Channel) : (s.updChan c f).run = s.run := rfl
@[simp] theorem updChan_batchRem (c : Fin 8) (f : Channel → Channel) : (s.updChan c f).batchRem = s.batchRem := rfl
@[simp] theorem updChan_overrun (c : Fin 8) (f : Channel → Channel) : (s.updChan c f).overrun = s.overrun := rfl
@[simp] theorem updChan_fifo (c : Fin 8) (f : Channel → Channel) : (s.updChan c f).fifo = s.fifo := rfl
@[simp] theorem updChan_pending (c : Fin 8) (f : Channel → Channel) : (s.updChan c f).pending = s.pending := rfl
@[simp] theorem updChan_delivered (c : Fin 8) (f : Channel → Channel) : (s.updChan c f).delivered = s.delivered := rfl

@[simp] theorem updTpl_voices (i : Fin 6) (f : TplRow → TplRow) : (s.updTpl i f).voices = s.voices := rfl
@[simp] theorem updTpl_chans (i : Fin 6) (f : TplRow → TplRow) : (s.updTpl i f).chans = s.chans := rfl
@[simp] theorem updTpl_tpl (i : Fin 6) (f : TplRow → TplRow) : (s.updTpl i f).tpl = updAt i f s.tpl := rfl
@[simp] theorem updTpl_fs (i : Fin 6) (f : TplRow → TplRow) : (s.updTpl i f).fs = s.fs := rfl
@[simp] theorem updTpl_tstep (i : Fin 6) (f : TplRow → TplRow) : (s.updTpl i f).tstep = s.tstep := rfl
@[simp] theorem updTpl_mvol (i : Fin 6) (f : TplRow → TplRow) : (s.updTpl i f).mvol = s.mvol := rfl
@[simp] theorem updTpl_reverb (i : Fin 6) (f : TplRow → TplRow) : (s.updTpl i f).reverb = s.reverb := rfl
@[simp] theorem updTpl_chorus (i : Fin 6) (f : TplRow → TplRow) : (s.updTpl i f).chorus = s.chorus := rfl
@[simp] theorem updTpl_dist (i : Fin 6) (f : TplRow → TplRow) : (s.updTpl i f).dist = s.dist := rfl
@[simp] theorem updTpl_chorusLfo (i : Fin 6) (f : TplRow → TplRow) : (s.updTpl i f).chorusLfo = s.chorusLfo := rfl
@[simp] theorem updTpl_curChan (i : Fin 6) (f : TplRow → TplRow) : (s.updTpl i f).curChan = s.curChan := rfl
@[simp] theorem updTpl_run (i : Fin 6) (f : TplRow → TplRow) : (s.updTpl i f).run = s.run := rfl
@[simp] theorem updTpl_batchRem (i : Fin 6) (f : TplRow → TplRow) : (s.updTpl i f).batchRem = s.batchRem := rfl
@[simp] theorem updTpl_overrun (i : Fin 6) (f : TplRow → TplRow) : (s.updTpl i f).overrun = s.overrun := rfl
@[simp] theorem updTpl_fifo (i : Fin 6) (f : TplRow → TplRow) : (s.updTpl i f).fifo = s.fifo := rfl
@[simp] theorem updTpl_pending (i : Fin 6) (f : TplRow → TplRow) : (s.updTpl i f).pending = s.pending := rfl
@[simp] theorem updTpl_delivered (i : Fin 6) (f : TplRow → TplRow) : (s.updTpl i f).delivered = s.delivered := rfl

end fields

@[simp] theorem eachOp_active (f : Op → Op) (vc : Voice) : (vc.eachOp f).active = vc.active := rfl
@[simp] theorem eachOp_note (f : Op → Op) (vc : Voice) : (vc.eachOp f).note = vc.note := rfl
@[simp] theorem eachOp_vel (f : Op → Op) (vc : Voice) : (vc.eachOp f).vel = vc.vel := rfl
@[simp] theorem eachOp_chan (f : Op → Op) (vc : Voice) : (vc.eachOp f).chan = vc.chan := rfl
@[simp] theorem eachOp_ops (f : Op → Op) (vc : Voice) : (vc.eachOp f).ops = each f vc.ops := rfl

@[simp] theorem releaseVoice_active (vc : Voice) : (releaseVoice vc).active = false := rfl
@[simp] theorem releaseVoice_note (vc : Voice) : (releaseVoice vc).note = -1 := rfl
@[simp] theorem releaseVoice_vel (vc : Voice) : (releaseVoice vc).vel = vc.vel := rfl
@[simp] theorem releaseVoice_chan (vc : Voice) : (releaseVoice vc).chan = vc.chan := rfl
@[simp] theorem releaseVoice_ops (vc : Voice) : (releaseVoice vc).ops = vc.ops := rfl

/-- Applying one function to every operator twice is applying the composite once. -/
theorem eachOp_eachOp (f g : Op → Op) (vc : Voice) :
    (vc.eachOp f).eachOp g = vc.eachOp fun o => g (f o) := by
  have : each g (each f vc.ops) = each (fun o => g (f o)) vc.ops :=
    bank_ext fun i => by simp only [getElem_each]
  simp only [Voice.eachOp, this]

@[simp] theorem fifoPush_voices (l r : Int) (s : State) : (fifoPush l r s).voices = s.voices := by
  unfold fifoPush; split <;> rfl
@[simp] theorem fifoPush_chans (l r : Int) (s : State) : (fifoPush l r s).chans = s.chans := by
  unfold fifoPush; split <;> rfl
@[simp] theorem fifoPush_tpl (l r : Int) (s : State) : (fifoPush l r s).tpl = s.tpl := by
  unfold fifoPush; split <;> rfl
@[simp] theorem fifoPush_fs (l r : Int) (s : State) : (fifoPush l r s).fs = s.fs := by
  unfold fifoPush; split <;> rfl
@[simp] theorem fifoPush_tstep (l r : Int) (s : State) : (fifoPush l r s).tstep = s.tstep := by
  unfold fifoPush; split <;> rfl
@[simp] theorem fifoPush_mvol (l r : Int) (s : State) : (fifoPush l r s).mvol = s.mvol := by
  unfold fifoPush; split <;> rfl
@[simp] theorem fifoPush_reverb (l r : Int) (s : State) : (fifoPush l r s).reverb = s.reverb := by
  unfold fifoPush; split <;> rfl
@[simp] theorem fifoPush_chorus (l r : Int) (s : State) : (fifoPush l r s).chorus = s.chorus := by
  unfold fifoPush; split <;> rfl
@[simp] theorem fifoPush_dist (l r : Int) (s : State) : (fifoPush l r s).dist = s.dist := by
  unfold fifoPush; split <;> rfl
@[simp] theorem fifoPush_chorusLfo (l r : Int) (s : State) : (fifoPush l r s).chorusLfo = s.chorusLfo := by
  unfold fifoPush; split <;> rfl
@[simp] theorem fifoPush_curChan (l r : Int) (s : State) : (fifoPush l r s).curChan = s.curChan := by
  unfold fifoPush; split <;> rfl
@[simp] theorem fifoPush_run (l r : Int) (s : State) : (fifoPush l r s).run = s.run := by
  unfold fifoPush; split <;> rfl
@[simp] theorem fifoPush_batchRem (l r : Int) (s : State) : (fifoPush l r s).batchRem = s.batchRem := by
  unfold fifoPush; split <;> rfl
@[simp] theorem fifoPush_pending (l r : Int) (s : State) : (fifoPush l r s).pending = s.pending := by
  unfold fifoPush; split <;> rfl
@[simp] theorem fifoPush_delivered (l r : Int) (s : State) : (fifoPush l r s).delivered = s.delivered := by
  unfold fifoPush; split <;> rfl

@[simp] theorem pop_voices (s : State) : (pop s).voices = s.voices := by
  unfold pop; split <;> rfl
@[simp] theorem pop_chans (s : State) : (pop s).chans = s.chans := by
  unfold pop; split <;> rfl
@[simp] theorem pop_tpl (s : State) : (pop s).tpl = s.tpl := by
  unfold pop; split <;> rfl
@[simp] theorem pop_fs (s : State) : (pop s).fs = s.fs := by
  unfold pop; split <;> rfl
@[simp] theorem pop_tstep (s : State) : (pop s).tstep = s.tstep := by
  unfold pop; split <;> rfl
@[simp] theorem pop_mvol (s : State) : (pop s).mvol = s.mvol := by
  unfold pop; split <;> rfl
@[simp] theorem pop_reverb (s : State) : (pop s).reverb = s.reverb := by
  unfold pop; split <;> rfl
@[simp] theorem pop_chorus (s : State) : (pop s).chorus = s.chorus := by
  unfold pop; split <;> rfl
@[simp] theorem pop_dist (s : State) : (pop s).dist = s.dist := by
  unfold pop; split <;> rfl
@[simp] theorem pop_chorusLfo (s : State) : (pop s).chorusLfo = s.chorusLfo := by
  unfold pop; split <;> rfl
@[simp] theorem pop_curChan (s : State) : (pop s).curChan = s.curChan := by
  unfold pop; split <;> rfl
@[simp] theorem pop_run (s : State) : (pop s).run = s.run := by
  unfold pop; split <;> rfl
@[simp] theorem pop_batchRem (s : State) : (pop s).batchRem = s.batchRem := by
  unfold pop; split <;> rfl
@[simp] theorem pop_overrun (s : State) : (pop s).overrun = s.overrun := by
  unfold pop; split <;> rfl
@[simp] theorem pop_pending (s : State) : (pop s).pending = s.pending := by
  unfold pop; split <;> rfl

/-- What a push can do: the frame enters whole, or the overrun bit is set (rule R199). -/
theorem fifoPush_cases (l r : Int) (s : State) :
    (s.fifo.length + 2 ≤ Config.fifoDepth ∧
      fifoPush l r s = { s with fifo := s.fifo ++ [BitVec.ofInt 16 l, BitVec.ofInt 16 r] }) ∨
    (Config.fifoDepth < s.fifo.length + 2 ∧ fifoPush l r s = { s with overrun := true }) := by
  by_cases h : s.fifo.length + 2 ≤ Config.fifoDepth
  · exact .inl ⟨h, if_pos h⟩
  · exact .inr ⟨Nat.lt_of_not_le h, if_neg h⟩

/-- What a pop can do: nothing on an empty FIFO, else the head goes to the sink (rules R202, R203). -/
theorem pop_cases (s : State) :
    (s.fifo = [] ∧ pop s = s) ∨
    (∃ w rest, s.fifo = w :: rest ∧
      pop s = { s with fifo := rest, delivered := s.delivered ++ [w] }) := by
  unfold pop
  split
  · exact .inl ⟨‹_›, rfl⟩
  · exact .inr ⟨_, _, ‹_›, rfl⟩

end Sys2Proof.Machine
end

