-- ==== Sys2Proof/Laws/Events.lean ====
section
/-! SUPPORT. What one event can do, and which event is taken (rules R203, R235). -/

namespace Sys2Proof.Machine

/-- The result of a meaning is a next state: each command's meaning is total (rules R15, R220). -/
theorem exec_next (i : Instr) (s : State) : ∃ t, exec i s = .next t := by
  cases i <;> exact ⟨_, rfl⟩

theorem runWord_ok {w : CommandWord} {i : Instr} (h : decode w = .ok i) (s : State) :
    runWord w s = exec i s := by
  unfold runWord; rw [h]

theorem runWord_error {w : CommandWord} {e : DecodeError} (h : decode w = .error e) (s : State) :
    runWord w s = .next s := by
  unfold runWord; rw [h]

/-- What an event can do on a machine with any routing table: execute a command, be a dropped word, tick,
pop or reset. -/
theorem performWith_cases {rom : Config.AlgRom} {e : Event} {s t : State}
    (h : performWith rom e s = .next t) :
    (∃ i, exec i s = .next t) ∨ t = s ∨ (e = .tick ∧ t = tickWith rom Config.fx s) ∨
      (e = .pop ∧ t = pop s) ∨ (e = .reset ∧ t = resetMachine s) := by
  cases e with
  | command w =>
    simp only [performWith, runWord] at h
    split at h
    · exact .inl ⟨_, h⟩
    · injection h with h; exact .inr (.inl h.symm)
  | tick => injection h with h; exact .inr (.inr (.inl ⟨rfl, h.symm⟩))
  | pop => injection h with h; exact .inr (.inr (.inr (.inl ⟨rfl, h.symm⟩)))
  | reset => injection h with h; exact .inr (.inr (.inr (.inr ⟨rfl, h.symm⟩)))

/-- What an event of this machine can do. -/
theorem perform_cases {e : Event} {s t : State} (h : perform e s = .next t) :
    (∃ i, exec i s = .next t) ∨ t = s ∨ (e = .tick ∧ t = tick s) ∨ (e = .pop ∧ t = pop s) ∨
      (e = .reset ∧ t = resetMachine s) :=
  performWith_cases h

theorem stepWith_some (rom : Config.AlgRom) {s : State} {e : Event} {rest : List Event}
    (h : nextEvent s = some (e, rest)) : stepWith rom s = performWith rom e { s with pending := rest } := by
  unfold stepWith; rw [h]

theorem stepWith_none (rom : Config.AlgRom) {s : State} (h : nextEvent s = none) :
    stepWith rom s = .next s := by
  unfold stepWith; rw [h]

/-- What a step can do on a machine with any routing table: perform one event, or wait. -/
theorem stepWith_cases {rom : Config.AlgRom} {s t : State} (h : stepWith rom s = .next t) :
    (∃ e rest, nextEvent s = some (e, rest) ∧ performWith rom e { s with pending := rest } = .next t) ∨
      t = s := by
  cases hn : nextEvent s with
  | none => rw [stepWith_none rom hn] at h; injection h with h; exact .inr h.symm
  | some p => rw [stepWith_some rom hn] at h; exact .inl ⟨_, _, rfl, h⟩

/-- A table is accepted exactly when it is legal, and then the step is `stepWith` of it (rule R125). -/
theorem configure_eq_some {rom : Config.AlgRom} {f : State → Host.Outcome State Fault Refusal} :
    configure rom = some f ↔ legalAlgRom rom = true ∧ f = stepWith rom := by
  unfold configure
  cases legalAlgRom rom <;> simp [eq_comm]

theorem step_some {s : State} {e : Event} {rest : List Event} (h : nextEvent s = some (e, rest)) :
    step s = perform e { s with pending := rest } := stepWith_some algRom h

theorem step_none {s : State} (h : nextEvent s = none) : step s = .next s := stepWith_none algRom h

/-- What a step of this machine can do. -/
theorem step_cases {s t : State} (h : step s = .next t) :
    (∃ e rest, nextEvent s = some (e, rest) ∧ perform e { s with pending := rest } = .next t) ∨ t = s :=
  stepWith_cases h

/-- The first presented event is taken if it is no `POP`. -/
theorem takeFirst_of_ne_pop {e : Event} (h : e ≠ .pop) (b : Bool) (rest : List Event) :
    takeFirst b (e :: rest) = some (e, rest) := by
  cases e <;> first | rfl | exact absurd rfl h

/-- With data in the FIFO the first presented event is taken, whatever it is. -/
theorem takeFirst_hasData (e : Event) (rest : List Event) : takeFirst false (e :: rest) = some (e, rest) := by
  cases e <;> rfl

end Sys2Proof.Machine
end

