-- ==== Sys2Proof/Laws/Operands.lean ====
section
/-! SUPPORT. What the operand checks and clamps answer (rules R61, R84, R150). -/

namespace Sys2Proof.Machine

open Sys2Proof.Config

@[simp] theorem voiceIdx_ofNat (v : Fin 16) : voiceIdx (BitVec.ofNat 5 v.val) = some v := by
  revert v; decide

@[simp] theorem chanIdx_ofNat (c : Fin 8) : chanIdx (BitVec.ofNat 5 c.val) = some c := by
  revert c; decide

@[simp] theorem opIdx_ofNat (i : Fin 6) : opIdx (BitVec.ofNat 3 i.val) = some i := by
  revert i; decide

@[simp] theorem algIdx_ofNat (n : Fin 32) : algIdx (BitVec.ofNat 48 n.val) = some n := by
  revert n; decide

@[simp] theorem noteNum_ofNat (n : Fin 128) : noteNum (BitVec.ofNat 48 n.val) = some n := by
  have h : (BitVec.ofNat 48 n.val).toInt = n.val := by
    have hn := n.isLt
    have hlt : (BitVec.ofNat 48 n.val).toNat = n.val := by simp; omega
    rw [BitVec.toInt_eq_toNat_cond, hlt, if_pos (by omega)]
  simp only [noteNum, h]
  rw [dif_pos (by omega)]
  simp

theorem voiceIdx_eq_none {idx : IdxField} (h : 15 < idx.toNat) : voiceIdx idx = none :=
  dif_neg (by omega)

theorem chanIdx_eq_none {idx : IdxField} (h : 7 < idx.toNat) : chanIdx idx = none :=
  dif_neg (by omega)

theorem opIdx_eq_none {opi : OpiField} (h : 5 < opi.toNat) : opIdx opi = none :=
  dif_neg (by omega)

theorem algIdx_eq_none {a : Arg} (h : a.toInt < 0 ∨ 31 < a.toInt) : algIdx a = none :=
  dif_neg (by omega)

theorem noteNum_eq_none {a : Arg} (h : a.toInt < 0 ∨ 127 < a.toInt) : noteNum a = none :=
  dif_neg (by omega)

theorem waveArg_eq_none {a : Arg} (h : a.toInt < 0 ∨ 3 < a.toInt) : waveArg a = none := by
  unfold waveArg
  rw [if_neg (by omega), if_neg (by omega), if_neg (by omega), if_neg (by omega)]

/-- What `withOp` can do: change the one operator named, or nothing (rule R150). -/
theorem withOp_cases (idx : IdxField) (opi : OpiField) (f : Op → Op) (s : State) :
    (∃ v i, voiceIdx idx = some v ∧ opIdx opi = some i ∧ withOp idx opi f s = s.updOp v i f) ∨
    ((15 < idx.toNat ∨ 5 < opi.toNat) ∧ withOp idx opi f s = s) := by
  unfold withOp
  by_cases hv : 15 < idx.toNat
  · rw [voiceIdx_eq_none hv]; exact .inr ⟨.inl hv, rfl⟩
  by_cases hi : 5 < opi.toNat
  · rw [opIdx_eq_none hi]; exact .inr ⟨.inr hi, by split <;> simp_all⟩
  · refine .inl ⟨⟨idx.toNat, by omega⟩, ⟨opi.toNat, by omega⟩, ?_, ?_, ?_⟩
    · exact dif_pos (by omega)
    · exact dif_pos (by omega)
    · rw [voiceIdx, dif_pos (by omega), opIdx, dif_pos (by omega)]

@[simp] theorem withOp_ofNat (v : Fin 16) (i : Fin 6) (f : Op → Op) (s : State) :
    withOp (BitVec.ofNat 5 v.val) (BitVec.ofNat 3 i.val) f s = s.updOp v i f := by
  simp only [withOp, voiceIdx_ofNat, opIdx_ofNat]

theorem withOp_dropped {idx : IdxField} {opi : OpiField} (h : 15 < idx.toNat ∨ 5 < opi.toNat)
    (f : Op → Op) (s : State) : withOp idx opi f s = s := by
  unfold withOp
  rcases h with h | h
  · rw [voiceIdx_eq_none h]
  · rw [opIdx_eq_none h]; split <;> simp_all

theorem unitArg_within (a : Arg) : 0 ≤ unitArg a ∧ unitArg a ≤ one := clamp_within (by decide)

theorem posArg_within (a : Arg) : 0 ≤ posArg a ∧ posArg a ≤ qmax := clamp_within (by decide)

theorem rateArg_within (a : Arg) : fsMin ≤ rateArg a ∧ rateArg a ≤ fsMax := clamp_within (by decide)

/-- A 48-bit argument lies in the 48-bit container (rules R9, R82). -/
theorem signedArg_within (a : Arg) : -qmax - 1 ≤ signedArg a ∧ signedArg a ≤ qmax := by
  have h1 := BitVec.le_toInt a
  have h2 := BitVec.toInt_lt (x := a)
  simp only [signedArg]
  norm_num at h1 h2 ⊢
  omega

theorem timeArg_within (a : Arg) : envTMin ≤ timeArg a ∧ timeArg a ≤ qmax := by
  have := signedArg_within a
  simp only [signedArg, qmax] at this
  simp only [timeArg, envTMin, qmax]
  omega

end Sys2Proof.Machine
end

