-- ==== Sys2Proof/Laws/Frames.lean ====
section
/-! SUPPORT. What each shared update of the registers can do and what it leaves alone, said once. -/

namespace Sys2Proof.Machine

open Sys2Proof.Config

theorem onlyOp_updOp (v : Fin 16) (i : Fin 6) (s : State) (f : Op → Op) :
    OnlyOp v i s (s.updOp v i f) := by
  refine ⟨rfl, fun v' => ?_⟩
  rw [updOp_voices]
  by_cases h : v = v'
  · subst h
    simp only [getElem_updAt_self]
    refine ⟨trivial, fun i' hne => ?_⟩
    rw [getElem_updAt_ne fun e => hne (by rw [e])]
  · rw [getElem_updAt_ne h]
    exact ⟨rfl, fun _ _ => rfl⟩

@[simp] theorem updOp_get (v : Fin 16) (i : Fin 6) (s : State) (f : Op → Op) :
    (s.updOp v i f).voices[v].ops[i] = f s.voices[v].ops[i] := by
  rw [updOp_voices]
  simp only [getElem_updAt_self]

theorem onlyVoice_updVoice (v : Fin 16) (s : State) (f : Voice → Voice) :
    OnlyVoice v s (s.updVoice v f) :=
  ⟨rfl, fun _ h => by rw [updVoice_voices, getElem_updAt_ne (Ne.symm h)]⟩

theorem onlyChan_updChan (c : Fin 8) (s : State) (f : Channel → Channel) :
    OnlyChan c s (s.updChan c f) :=
  ⟨rfl, fun _ h => by rw [updChan_chans, getElem_updAt_ne (Ne.symm h)]⟩

theorem onlyTpl_updTpl (i : Fin 6) (s : State) (f : TplRow → TplRow) : OnlyTpl i s (s.updTpl i f) :=
  ⟨rfl, fun _ h => by rw [updTpl_tpl, getElem_updAt_ne (Ne.symm h)]⟩

/-- Everything `releaseWhere` does (rules R117, R133, R134). -/
theorem releaseWhere_spec (p : Voice → Bool) (s : State) :
    releaseWhere p s = { s with voices := (releaseWhere p s).voices } ∧
    ∀ v : Fin 16, (releaseWhere p s).voices[v] =
        { s.voices[v] with ops := (releaseWhere p s).voices[v].ops } ∧
      ∀ i : Fin 6, (releaseWhere p s).voices[v].ops[i] =
        if (s.voices[v].active && p s.voices[v]) = true
        then { s.voices[v].ops[i] with es := .release, et := 0 } else s.voices[v].ops[i] := by
  refine ⟨rfl, fun v => ?_⟩
  simp only [releaseWhere, eachVoice_voices, getElem_each]
  split
  · exact ⟨rfl, fun i => by simp only [releaseOps, eachOp_ops, getElem_each]⟩
  · exact ⟨rfl, fun _ => rfl⟩

/-- Everything `broadcast` does (rules R161, R162). -/
theorem broadcast_spec (c : Fin 8) (f : Op → Op) (s : State) :
    broadcast c f s = { s with voices := (broadcast c f s).voices } ∧
    ∀ v : Fin 16, (broadcast c f s).voices[v] =
        { s.voices[v] with ops := (broadcast c f s).voices[v].ops } ∧
      ∀ i : Fin 6, (broadcast c f s).voices[v].ops[i] =
        if (s.voices[v].active && decide (s.voices[v].chan = c)) = true
        then f s.voices[v].ops[i] else s.voices[v].ops[i] := by
  refine ⟨rfl, fun v => ?_⟩
  simp only [broadcast, eachVoice_voices, getElem_each]
  split
  · exact ⟨rfl, fun i => by simp only [eachOp_ops, getElem_each]⟩
  · exact ⟨rfl, fun _ => rfl⟩

@[simp] theorem startVoice_ops (s : State) (n : Fin 128) (vel : Int) (i : Fin 6) :
    (startVoice s n vel).ops[i] = startOp s n vel i := by
  simp only [startVoice, Fin.getElem_fin, Vector.getElem_ofFn]

/-- What `NOTE_ON` can do: build a voice at the index `FindFree` gives, or at 0 (rules R131, R132). -/
theorem noteOn_cases (n : Fin 128) (vel : Int) (s : State) :
    ∃ v, (findFree s = some v ∨ findFree s = none ∧ v = 0) ∧
      noteOn n vel s = s.updVoice v fun _ => startVoice s n vel := by
  unfold noteOn
  cases h : findFree s with
  | some v => exact ⟨v, .inl rfl, rfl⟩
  | none =>
    refine ⟨0, .inr ⟨rfl, rfl⟩, ?_⟩
    simp only [State.updVoice, updAt_updAt]

end Sys2Proof.Machine
end

