-- ==== Sys2Proof/Laws/PerInstr.lean ====
section
/-! SUPPORT. One statement about every command as syntax: the word that encodes it carries the opcode the
opcode map gives it, one of the 23 of rule R83. -/

namespace Sys2Proof.Laws.Opcode

/-- The encoding of a command carries its opcode, which is one of 0x00 to 0x16 (rules R80, R83,
R88). -/
def Statement (i : Instr) : Prop :=
  opcField (encode i) = BitVec.ofNat 8 (opcodeOf i) ∧ opcodeOf i ≤ 0x16

theorem nop : Statement (.nop) := by
  simp [Statement, encode, opcodeOf]

theorem noteOn (note vel : Arg) : Statement (.noteOn note vel) := by
  simp [Statement, encode, opcodeOf]

theorem noteOff (note : Arg) : Statement (.noteOff note) := by
  simp [Statement, encode, opcodeOf]

theorem allNotesOff : Statement (.allNotesOff) := by
  simp [Statement, encode, opcodeOf]

theorem setAlgorithm (chan : IdxField) (index : Arg) : Statement (.setAlgorithm chan index) := by
  simp [Statement, encode, opcodeOf]

theorem setOpFreq (voice : IdxField) (op : OpiField) (hz : Arg) : Statement (.setOpFreq voice op hz) := by
  simp [Statement, encode, opcodeOf]

theorem setOpAmp (voice : IdxField) (op : OpiField) (amp : Arg) : Statement (.setOpAmp voice op amp) := by
  simp [Statement, encode, opcodeOf]

theorem setOpModidx (voice : IdxField) (op : OpiField) (mi : Arg) : Statement (.setOpModidx voice op mi) := by
  simp [Statement, encode, opcodeOf]

theorem setOpWave (voice : IdxField) (op : OpiField) (wave : Arg) : Statement (.setOpWave voice op wave) := by
  simp [Statement, encode, opcodeOf]

theorem setEnvelope (voice : IdxField) (op : OpiField) (a d su r : Arg) : Statement (.setEnvelope voice op a d su r) := by
  simp [Statement, encode, opcodeOf]

theorem setMasterVol (vol : Arg) : Statement (.setMasterVol vol) := by
  simp [Statement, encode, opcodeOf]

theorem setSampleRate (hz : Arg) : Statement (.setSampleRate hz) := by
  simp [Statement, encode, opcodeOf]

theorem setPitchBend (chan : IdxField) (mult : Arg) : Statement (.setPitchBend chan mult) := by
  simp [Statement, encode, opcodeOf]

theorem setModWheel (chan : IdxField) (value : Arg) : Statement (.setModWheel chan value) := by
  simp [Statement, encode, opcodeOf]

theorem setReverb (amount : Arg) : Statement (.setReverb amount) := by
  simp [Statement, encode, opcodeOf]

theorem setChorus (amount : Arg) : Statement (.setChorus amount) := by
  simp [Statement, encode, opcodeOf]

theorem setDistortion (amount : Arg) : Statement (.setDistortion amount) := by
  simp [Statement, encode, opcodeOf]

theorem setTplOsc (op : OpiField) (ratio amp mi wave : Arg) : Statement (.setTplOsc op ratio amp mi wave) := by
  simp [Statement, encode, opcodeOf]

theorem setTplEnv (op : OpiField) (a d su r : Arg) : Statement (.setTplEnv op a d su r) := by
  simp [Statement, encode, opcodeOf]

theorem setCurChan (chan : IdxField) : Statement (.setCurChan chan) := by
  simp [Statement, encode, opcodeOf]

theorem start : Statement (.start) := by
  simp [Statement, encode, opcodeOf]

theorem stop : Statement (.stop) := by
  simp [Statement, encode, opcodeOf]

theorem clrOverrun : Statement (.clrOverrun) := by
  simp [Statement, encode, opcodeOf]

end Sys2Proof.Laws.Opcode
end

