-- ==== Sys2Proof/Laws/Roms.lean ====
section
/-! SUPPORT. The range of the sine table, which every range of a sine rests on (rule R210). -/

namespace Sys2Proof.Machine

theorem sinQuarter_le : ∀ x ∈ sinQuarter, x ≤ 4194304 := by decide +kernel

theorem sinQuarter_getD_le (k : Nat) : sinQuarter.getD k 0 ≤ 4194304 := by
  rw [List.getD_eq_getElem?_getD]
  cases h : sinQuarter[k]? with
  | none => exact Nat.zero_le _
  | some x => exact sinQuarter_le x (List.mem_of_getElem? h)

/-- Every entry of the sine table, and every index outside it, is in `[-ONE, ONE]`. -/
theorem sinRom_within (k : Nat) : -4194304 ≤ sinRom k ∧ sinRom k ≤ 4194304 := by
  have h1 := sinQuarter_getD_le k
  have h2 := sinQuarter_getD_le (2048 - k)
  have h3 := sinQuarter_getD_le (k - 2048)
  have h4 := sinQuarter_getD_le (4096 - k)
  unfold sinRom
  split
  · omega
  split
  · omega
  split <;> omega

/-- The chorus factor is a sine (rule R192). -/
theorem chorusLfoOf_within (fs : Int) : -4194304 ≤ chorusLfoOf fs ∧ chorusLfoOf fs ≤ 4194304 := by
  unfold chorusLfoOf chorusLfoWith
  exact sinRom_within _

end Sys2Proof.Machine
end

