-- ==== Sys2Proof/Laws/Sample.lean ====
section
/-! SUPPORT. What a sample and a `TICK` can do, case by case (rules R140, R141, R196). -/

namespace Sys2Proof.Machine

open Sys2Proof.Config

variable (rom : AlgRom) (p : FxParams) (s : State)

/-- What one sample does with a voice: nothing, reclaim it, or sound it (rules R140, R141). -/
theorem voiceSample_cases (vc : Voice) :
    (vc.active = false ∧ voiceSample rom p s vc = (vc, none)) ∨
    (vc.active = true ∧ allOff (vc.eachOp (envStep s.tstep)) = true ∧
      voiceSample rom p s vc = (releaseVoice (vc.eachOp (envStep s.tstep)), none)) ∨
    (vc.active = true ∧ allOff (vc.eachOp (envStep s.tstep)) = false ∧
      voiceSample rom p s vc =
        ((vc.eachOp (envStep s.tstep)).eachOp phaseAdvance,
          some (mulQ (fxWith p s (route (rom s.chans[vc.chan].alg) (each (envStep s.tstep) vc.ops)))
            s.mvol))) := by
  unfold voiceSample
  cases ha : vc.active with
  | false => exact .inl ⟨rfl, rfl⟩
  | true =>
    refine .inr ?_
    simp only [if_true, voiceStep]
    cases ho : allOff (vc.eachOp (envStep s.tstep)) with
    | true => exact .inl ⟨trivial, rfl, rfl⟩
    | false => exact .inr ⟨trivial, rfl, rfl⟩

theorem allOff_iff (vc : Voice) : allOff vc = true ↔ ∀ i : Fin 6, vc.ops[i].es = .off := by
  simp [allOff, List.all_eq_true]

@[simp] theorem afterFrame_voices (v : Fin 16) :
    (afterFrame rom p s).voices[v] = (voiceSample rom p s s.voices[v]).1 := by
  rw [afterFrame, eachVoice_voices, getElem_each]

/-- A sample changes the voices only. -/
theorem afterFrame_eq : afterFrame rom p s = { s with voices := (afterFrame rom p s).voices } := rfl

/-- What a `TICK` can do: nothing, or generate a frame, as the first of a batch or a later one
(rule R196). -/
theorem tickWith_cases :
    (s.batchRem = 0 ∧ (s.run && anyActive s) = false ∧ tickWith rom p s = s) ∨
    (s.batchRem = 0 ∧ (s.run && anyActive s) = true ∧
      tickWith rom p s = generate rom p batchLen s) ∨
    (0 < s.batchRem ∧ tickWith rom p s = generate rom p s.batchRem s) := by
  unfold tickWith
  by_cases hb : s.batchRem = 0
  · simp only [hb, if_true]
    cases hr : s.run && anyActive s with
    | false => exact .inl ⟨trivial, rfl, by simp⟩
    | true => exact .inr (.inl ⟨trivial, rfl, by simp⟩)
  · exact .inr (.inr ⟨by omega, by simp only [hb, if_false]⟩)

/-- What a generated frame leaves: the voices stepped, the counter lowered, the frame queued or lost
(rules R196, R199). -/
theorem generate_eq (rem : Nat) :
    ∃ q o, generate rom p rem s =
        { s with voices := (afterFrame rom p s).voices, batchRem := rem - 1, fifo := q, overrun := o } ∧
      ((s.fifo.length + 2 ≤ fifoDepth ∧ o = s.overrun ∧
          q = s.fifo ++ [BitVec.ofInt 16 (frame rom p s).1, BitVec.ofInt 16 (frame rom p s).2]) ∨
        (fifoDepth < s.fifo.length + 2 ∧ o = true ∧ q = s.fifo)) := by
  have key : ∀ (l r : Int) (u : State), ∃ q o, fifoPush l r u = { u with fifo := q, overrun := o } ∧
      ((u.fifo.length + 2 ≤ fifoDepth ∧ o = u.overrun ∧
          q = u.fifo ++ [BitVec.ofInt 16 l, BitVec.ofInt 16 r]) ∨
        (fifoDepth < u.fifo.length + 2 ∧ o = true ∧ q = u.fifo)) := by
    intro l r u
    rcases fifoPush_cases l r u with ⟨h, e⟩ | ⟨h, e⟩
    · exact ⟨_, u.overrun, e, .inl ⟨h, rfl, rfl⟩⟩
    · exact ⟨u.fifo, _, e, .inr ⟨h, rfl, rfl⟩⟩
  rw [generate, afterFrame_eq]
  generalize (afterFrame rom p s).voices = vs
  obtain ⟨q, o, e, h⟩ := key (frame rom p s).1 (frame rom p s).2
    { s with voices := vs, batchRem := rem - 1 }
  exact ⟨q, o, e, h⟩

end Sys2Proof.Machine
end

