-- ==== Sys2Proof/Machine/Assembler.lean ====
section
/-! DEFINITION. The lines of the spec's assembler, as structured data, and the events each stands for
(rules R92, R93; log 17). The text itself is not hardware; what a line makes the agents do is. -/

namespace Sys2Proof.Machine

/-- One row of a preset: the values of a template row, as command arguments (rule R93). -/
structure PresetRow where
  ratio : Arg
  amp : Arg
  mi : Arg
  wave : Arg
  a : Arg
  d : Arg
  su : Arg
  r : Arg
deriving DecidableEq, Repr

/-- The argument nearest to a real `num / den` in Q22, ties away from zero (rules R82, R92). DESIGN CHOICE
(log 20): the spec does not say what an assembler does with a literal whose nearest Q22 integer does not
fit 48 bits; here it is reduced modulo `2^48`. -/
def q22Arg (num : Int) (den : Nat) : Arg := BitVec.ofInt 48 (rnd (num * Config.one) den)

/-- The velocity an assembler supplies when `NOTE_ON` names none: 1.0 (rule R92). -/
def defaultVel : Arg := q22Arg 1 1

/-- `SET_PRESET_CONFIG`: twelve commands, two per template row (rule R93). -/
def presetConfig (rows : Fin 6 → PresetRow) : List Instr :=
  (List.finRange 6).flatMap fun i =>
    [.setTplOsc (BitVec.ofNat 3 i.val) (rows i).ratio (rows i).amp (rows i).mi (rows i).wave,
      .setTplEnv (BitVec.ofNat 3 i.val) (rows i).a (rows i).d (rows i).su (rows i).r]

/-- `APPLY_PRESET`: algorithm, template, volume and the three amounts (rule R93). -/
def applyPreset (chan : IdxField) (rows : Fin 6 → PresetRow)
    (algorithm masterVolume reverb chorus distortion : Arg) : List Instr :=
  .setAlgorithm chan algorithm :: (presetConfig rows ++
    [.setMasterVol masterVolume, .setReverb reverb, .setChorus chorus, .setDistortion distortion])

/-- `NOTE_ON_CH`: the channel, then the note (rule R93). -/
def noteOnCh (chan : IdxField) (note vel : Arg) : List Instr := [.setCurChan chan, .noteOn note vel]

/-- A line of the assembler: commands, `TICK n`, `POP n`, `RESET` (rules R92, R93). -/
inductive AsmLine where
  | commands (is : List Instr)
  | ticks (n : Nat)
  | pops (n : Nat)
  | reset
deriving DecidableEq, Repr

/-- The events a line stands for, in order (rule R92). -/
def AsmLine.events : AsmLine → List Event
  | .commands is => is.map fun i => .command (encode i)
  | .ticks n => List.replicate n .tick
  | .pops n => List.replicate n .pop
  | .reset => [.reset]

end Sys2Proof.Machine
end

