-- ==== Sys2Proof/Tests/Slice0.lean ====
section
/-! SUPPORT. Tests. Every expected value is a worked example or a table entry of spec/, named in the
docstring; the last sections show that the hypotheses of each statement can be met. -/

namespace Sys2Proof.Tests

open Sys2Proof.Machine Sys2Proof.Config

/-! ### Decoding: one written word per command -/

/-- Rule R94, `NOP`. -/
theorem test_decode_nop :
    decode 0x0000000000000000000000000000000000000000000000000000 = .ok .nop := by decide

/-- Rule R94, `NOTE_ON note=60`. -/
theorem test_decode_noteOn :
    decode 0x010000000000003C000000400000000000000000000000000000 = .ok (.noteOn 60 4194304) := by decide

/-- Rule R94, `NOTE_OFF note=60`. -/
theorem test_decode_noteOff :
    decode 0x020000000000003C000000000000000000000000000000000000 = .ok (.noteOff 60) := by decide

/-- Rule R83, opcode 0x03; the ignored fields are set. -/
theorem test_decode_allNotesOff :
    decode 0x03FF000000000001000000000002000000000003000000000004 = .ok .allNotesOff := by decide

/-- Rule R94, `SET_ALGORITHM chan=2, index=31`. -/
theorem test_decode_setAlgorithm :
    decode 0x041000000000001F000000000000000000000000000000000000 = .ok (.setAlgorithm 2 31) := by decide

/-- Rule R152, `SET_OP_FREQ voice=0, op=1, hz=880.0`. -/
theorem test_decode_setOpFreq :
    decode 0x05010000DC000000000000000000000000000000000000000000 = .ok (.setOpFreq 0 1 3690987520) := by
  decide

/-- Rule R153, `SET_OP_AMP voice=2, op=0, amp=1.5`. -/
theorem test_decode_setOpAmp :
    decode 0x0610000000600000000000000000000000000000000000000000 = .ok (.setOpAmp 2 0 6291456) := by decide

/-- Rule R154, `SET_OP_MODIDX voice=15, op=5, mi=-1.0`: voice 15 is `11111`, operator 5 is `101`. -/
theorem test_decode_setOpModidx :
    decode 0x077DFFFFFFC00000000000000000000000000000000000000000
      = .ok (.setOpModidx 15 5 (BitVec.ofInt 48 (-4194304))) := by decide

/-- Rule R155, `SET_OP_WAVE voice=0, op=0, wave=SQUARE`. -/
theorem test_decode_setOpWave :
    decode 0x0800000000000002000000000000000000000000000000000000 = .ok (.setOpWave 0 0 2) := by decide

/-- Rule R94, `SET_ENVELOPE voice=3, op=2`: attack, decay, sustain and release in that order. -/
theorem test_decode_setEnvelope :
    decode 0x091A000000008000000000080000000000200000000000100000
      = .ok (.setEnvelope 3 2 32768 524288 2097152 1048576) := by decide

/-- Rule R157, `SET_MASTER_VOL vol=1.5`. -/
theorem test_decode_setMasterVol :
    decode 0x0A00000000600000000000000000000000000000000000000000 = .ok (.setMasterVol 6291456) := by decide

/-- Rule R160, `SET_SAMPLE_RATE hz=48000`. -/
theorem test_decode_setSampleRate :
    decode 0x0B0000000000BB80000000000000000000000000000000000000 = .ok (.setSampleRate 48000) := by decide

/-- Rule R161, `SET_PITCH_BEND chan=0, mult=1.059463094`. -/
theorem test_decode_setPitchBend :
    decode 0x0C0000000043CE3E000000000000000000000000000000000000 = .ok (.setPitchBend 0 4443710) := by decide

/-- Rule R162, `SET_MOD_WHEEL chan=3, value=0.5`. -/
theorem test_decode_setModWheel :
    decode 0x0D18000000200000000000000000000000000000000000000000 = .ok (.setModWheel 3 2097152) := by decide

/-- Rule R163. -/
theorem test_decode_setReverb :
    decode 0x0E00000000100000000000000000000000000000000000000000 = .ok (.setReverb 1048576) := by decide

/-- Rule R164. -/
theorem test_decode_setChorus :
    decode 0x0F00000000800000000000000000000000000000000000000000 = .ok (.setChorus 8388608) := by decide

/-- Rule R165: the argument is -1. -/
theorem test_decode_setDistortion :
    decode 0x1000FFFFFFFFFFFF000000000000000000000000000000000000
      = .ok (.setDistortion (BitVec.ofInt 48 (-1))) := by decide

/-- Rule R166, `SET_TPL_OSC op=1, ratio=2.0, amp=1.0, mi=3.0, wave=SINE`. -/
theorem test_decode_setTplOsc :
    decode 0x1101000000800000000000400000000000C00000000000000000
      = .ok (.setTplOsc 1 8388608 4194304 12582912 0) := by decide

/-- Rule R167, `SET_TPL_ENV op=1, a=q:4096, d=0.0625, s=0.0, r=0.125`. -/
theorem test_decode_setTplEnv :
    decode 0x1201000000001000000000040000000000000000000000080000
      = .ok (.setTplEnv 1 4096 262144 0 524288) := by decide

/-- Rule R168, `SET_CUR_CHAN chan=5`. -/
theorem test_decode_setCurChan :
    decode 0x1328000000000000000000000000000000000000000000000000 = .ok (.setCurChan 5) := by decide

/-- Rule R83, opcode 0x14. -/
theorem test_decode_start :
    decode 0x1400000000000000000000000000000000000000000000000000 = .ok .start := by decide

/-- Rule R83, opcode 0x15. -/
theorem test_decode_stop :
    decode 0x1500000000000000000000000000000000000000000000000000 = .ok .stop := by decide

/-- Rule R83, opcode 0x16. -/
theorem test_decode_clrOverrun :
    decode 0x1600000000000000000000000000000000000000000000000000 = .ok .clrOverrun := by decide

/-- Rule R88: the first reserved opcode is rejected by name. -/
theorem test_decode_reserved_first :
    decode 0x1700000000000000000000000000000000000000000000000000 = .error (.reservedOpcode 0x17) := by decide

/-- Rule R88: the last reserved opcode is rejected by name. -/
theorem test_decode_reserved_last :
    decode 0xFF00000000000000000000000000000000000000000000000000 = .error (.reservedOpcode 0xFF) := by decide

/-! ### Well-formedness: an ill-formed command for each check (rules R61, R84) -/

theorem test_wf_note_high : (Instr.noteOn 128 0).wellFormed = false := by decide
theorem test_wf_note_negative : (Instr.noteOff (BitVec.ofInt 48 (-1))).wellFormed = false := by decide
theorem test_wf_note_last : (Instr.noteOn 127 0).wellFormed = true := by decide
theorem test_wf_alg_channel : (Instr.setAlgorithm 8 0).wellFormed = false := by decide
theorem test_wf_alg_index : (Instr.setAlgorithm 7 32).wellFormed = false := by decide
theorem test_wf_alg_last : (Instr.setAlgorithm 7 31).wellFormed = true := by decide
theorem test_wf_freq_voice : (Instr.setOpFreq 16 0 0).wellFormed = false := by decide
theorem test_wf_amp_op : (Instr.setOpAmp 15 6 0).wellFormed = false := by decide
theorem test_wf_amp_last : (Instr.setOpAmp 15 5 0).wellFormed = true := by decide
theorem test_wf_modidx_op : (Instr.setOpModidx 0 7 0).wellFormed = false := by decide
theorem test_wf_wave_code : (Instr.setOpWave 0 0 4).wellFormed = false := by decide
theorem test_wf_envelope_voice : (Instr.setEnvelope 31 0 0 0 0 0).wellFormed = false := by decide
theorem test_wf_bend_channel : (Instr.setPitchBend 8 0).wellFormed = false := by decide
theorem test_wf_wheel_channel : (Instr.setModWheel 31 0).wellFormed = false := by decide
theorem test_wf_tplOsc_row : (Instr.setTplOsc 6 0 0 0 0).wellFormed = false := by decide
theorem test_wf_tplOsc_wave : (Instr.setTplOsc 5 0 0 0 4).wellFormed = false := by decide
theorem test_wf_tplEnv_row : (Instr.setTplEnv 6 0 0 0 0).wellFormed = false := by decide
theorem test_wf_curChan : (Instr.setCurChan 8).wellFormed = false := by decide

/-! ### Helpers -/

/-- The state a step leaves when the word is presented. -/
def after (s : State) (w : Nat) : State :=
  match step (s.withFetchWord 208 w) with
  | .next t => t
  | _ => s

/-- The state a step leaves when the event is presented. -/
def afterEvent (s : State) (e : Event) : State :=
  match step { s with pending := [e] } with
  | .next t => t
  | _ => s

/-- A voice holding a note. -/
def held (note : Int) : Voice := { Voice.reset with active := true, note := note }

/-- All sixteen voices active, holding note 60. -/
def crowd : State := { State.reset with voices := Vector.replicate 16 (held 60) }

/-- Voices 0 and 1 hold note 60, voice 2 holds 64, the others are free (the example of rule R133). -/
def trio : State :=
  { State.reset with voices := Vector.ofFn fun v : Fin 16 =>
      if v.val ≤ 1 then held 60 else if v.val = 2 then held 64 else Voice.reset }

/-- The operators of the example of rule R131 in ATTACK with a given time, level and phase of operator 0:
only operator 0 has an amplitude. -/
def note60Op (et el phase : Int) (i : Fin 6) : Op :=
  { freq := 1097337155, pinc := 156344, amp := if i = 0 then 3774874 else 0, modidx := 4194304,
    wave := .sine, atk := 32768, dcy := 524288, sus := 2097152, rel := 1048576, es := .attack, el := el,
    et := et, phase := phase, pb := 4194304, mw := 0, vel := 4194304 }

/-- The state of the example of rule R149, with `RUN` set and note 60 on voice 0. -/
def note60 (et el phase : Int) : State :=
  { State.reset with
    run := true
    voices := Vector.ofFn fun v : Fin 16 =>
      if v.val = 0 then
        { active := true, note := 60, vel := 4194304, chan := 0, ops := Vector.ofFn (note60Op et el phase) }
      else Voice.reset }

/-- Six operators with `AMP = EL = VEL = MODIDX = ONE`, sine, phases `(i + 1) * 1000000` (rule R122). -/
def sixOps : Vector Op 6 :=
  Vector.ofFn fun i : Fin 6 =>
    { Op.reset with amp := 4194304, el := 4194304, vel := 4194304, modidx := 4194304,
                    phase := (i.val + 1) * 1000000 }

/-- The operator of rule R104. -/
def op104 : Op :=
  { Op.reset with amp := 3774874, el := 2097152, vel := 3145728, modidx := 8388608, phase := 1000000 }

/-! ### One step of each command, from its worked example -/

/-- Rule R169. -/
theorem test_nop_runs : step (State.reset.withFetchWord 208 0) = .next State.reset := rfl

/-- Rule R131, worked example: note 60 after reset takes voice 0. -/
theorem test_noteOn_takes_voice_0 :
    let t := after State.reset 0x010000000000003C000000400000000000000000000000000000
    t.voices[0].active = true ∧ t.voices[0].note = 60 ∧ t.voices[0].vel = 4194304 ∧
    t.voices[1].active = false ∧
    t.voices[0].ops[0].freq = 1097337155 ∧ t.voices[0].ops[0].pinc = 156344 ∧
    t.voices[0].ops[0].amp = 3774874 ∧ t.voices[0].ops[1].amp = 0 ∧ t.voices[0].ops[5].es = .attack := by
  decide +kernel

/-- Rule R132: with all voices active voice 0 is stolen. -/
theorem test_noteOn_steals_voice_0 :
    let t := after crowd 0x0100000000000045000000400000000000000000000000000000
    t.voices[0].note = 69 ∧ t.voices[0].ops[3].pinc = 262938 ∧ t.voices[1].note = 60 := by
  decide +kernel

/-- Rule R133, worked example. -/
theorem test_noteOff_releases_matching :
    let t := after trio 0x020000000000003C000000000000000000000000000000000000
    t.voices[0].ops[0].es = .release ∧ t.voices[1].ops[5].es = .release ∧ t.voices[2].ops[0].es = .off ∧
    t.voices[0].active = true ∧ t.voices[3].ops[0].es = .off := by
  decide +kernel

/-- Rule R134: every active voice is released, a free one is not. -/
theorem test_allNotesOff_releases_active :
    let t := after trio 0x0300000000000000000000000000000000000000000000000000
    t.voices[2].ops[0].es = .release ∧ t.voices[3].ops[0].es = .off ∧ t.voices[2].active = true := by
  decide +kernel

/-- Rule R151, worked example. -/
theorem test_setAlgorithm_sets :
    (after State.reset 0x0400000000000016000000000000000000000000000000000000).chans[0].alg = 22 := by
  decide +kernel

/-- Rule R151, worked example: channel 1, index 32 is dropped. -/
theorem test_setAlgorithm_drops :
    (after State.reset 0x0408000000000020000000000000000000000000000000000000).chans[1].alg = 0 := by
  decide +kernel

/-- Rule R152, worked example. -/
theorem test_setOpFreq_sets :
    let o := (after State.reset 0x05010000DC000000000000000000000000000000000000000000).voices[0].ops[1]
    o.freq = 3690987520 ∧ o.pinc = 525877 := by
  decide +kernel

/-- Rule R152, worked example: a negative frequency is clamped. -/
theorem test_setOpFreq_clamps :
    let o := (after State.reset 0x0501FFFFFFC00000000000000000000000000000000000000000).voices[0].ops[1]
    o.freq = 0 ∧ o.pinc = 0 := by
  decide +kernel

/-- Rule R153, worked example: 1.5 is clamped to 1.0. -/
theorem test_setOpAmp_clamps :
    (after State.reset 0x0610000000600000000000000000000000000000000000000000).voices[2].ops[0].amp
      = 4194304 := by
  decide +kernel

/-- Rule R154, worked example: a negative index is kept. -/
theorem test_setOpModidx_negative :
    (after State.reset 0x077DFFFFFFC00000000000000000000000000000000000000000).voices[15].ops[5].modidx
      = -4194304 := by
  decide +kernel

/-- Rule R155, worked example. -/
theorem test_setOpWave_square :
    (after State.reset 0x0800000000000002000000000000000000000000000000000000).voices[0].ops[0].wave
      = .square := by
  decide +kernel

/-- Rule R155, worked example: code 4 is dropped. -/
theorem test_setOpWave_drops :
    (after State.reset 0x0800000000000004000000000000000000000000000000000000).voices[0].ops[0].wave
      = .sine := by
  decide +kernel

/-- Rule R156, worked example: the floor and the clamp. -/
theorem test_setEnvelope_clamps :
    let o := (after State.reset 0x0900000000000000FFFFFFFFFFFB000000800000000000400000).voices[0].ops[0]
    o.atk = 4096 ∧ o.dcy = 4096 ∧ o.sus = 4194304 ∧ o.rel = 4194304 := by
  decide +kernel

/-- Rule R157, worked example. -/
theorem test_setMasterVol_clamps :
    (after State.reset 0x0A00000000600000000000000000000000000000000000000000).mvol = 4194304 ∧
    (after State.reset 0x0A00FFFFFFC00000000000000000000000000000000000000000).mvol = 0 := by
  decide +kernel

/-- Rule R160, worked examples, with voice 0 holding 440 Hz. -/
theorem test_setSampleRate_recomputes :
    let s := after State.reset 0x0100000000000045000000400000000000000000000000000000
    let t := after s 0x0B0000000000BB80000000000000000000000000000000000000
    t.fs = 48000 ∧ t.tstep = 89479 ∧ t.voices[0].ops[0].pinc = 241575 ∧ t.voices[0].ops[5].pinc = 241575 := by
  decide +kernel

/-- Rule R160, worked example: 1000000 Hz is clamped to 192000. -/
theorem test_setSampleRate_clamps :
    let t := after State.reset 0x0B000000000F4240000000000000000000000000000000000000
    t.fs = 192000 ∧ t.tstep = 22370 := by
  decide +kernel

/-- Rule R161, worked example: the bend reaches the channel and the sounding voice, not a free one. -/
theorem test_setPitchBend_broadcast :
    let t := after trio 0x0C0000000043CE3E000000000000000000000000000000000000
    t.chans[0].pb = 4443710 ∧ t.voices[0].ops[5].pb = 4443710 ∧ t.voices[3].ops[0].pb = 4194304 ∧
    t.chans[1].pb = 4194304 := by
  decide +kernel

/-- Rule R162, worked example: no voice is on channel 3. -/
theorem test_setModWheel_channel :
    let t := after trio 0x0D18000000200000000000000000000000000000000000000000
    t.chans[3].mw = 2097152 ∧ t.voices[0].ops[0].mw = 0 := by
  decide +kernel

/-- Rule R163, worked example. -/
theorem test_setReverb_sets :
    (after State.reset 0x0E00000000100000000000000000000000000000000000000000).reverb = 1048576 := by
  decide +kernel

/-- Rule R164, worked example: 2.0 is clamped. -/
theorem test_setChorus_clamps :
    (after State.reset 0x0F00000000800000000000000000000000000000000000000000).chorus = 4194304 := by
  decide +kernel

/-- Rule R165, worked example: a negative amount is clamped. -/
theorem test_setDistortion_clamps :
    (after State.reset 0x1000FFFFFFFFFFFF000000000000000000000000000000000000).dist = 0 := by
  decide +kernel

/-- Rule R166, worked example. -/
theorem test_setTplOsc_sets :
    let r := (after State.reset 0x1101000000800000000000400000000000C00000000000000000).tpl[1]
    r.ratio = 8388608 ∧ r.amp = 4194304 ∧ r.modidx = 12582912 ∧ r.wave = .sine ∧ r.atk = 32768 := by
  decide +kernel

/-- Rule R167, worked example. -/
theorem test_setTplEnv_sets :
    let r := (after State.reset 0x1201000000001000000000040000000000000000000000080000).tpl[1]
    r.atk = 4096 ∧ r.dcy = 262144 ∧ r.sus = 0 ∧ r.rel = 524288 ∧ r.ratio = 4194304 := by
  decide +kernel

/-- Rule R168, worked examples: channel 5 is set, channel 9 is dropped. -/
theorem test_setCurChan_sets :
    (after State.reset 0x1328000000000000000000000000000000000000000000000000).curChan = 5 ∧
    (after State.reset 0x1348000000000000000000000000000000000000000000000000).curChan = 0 := by
  decide +kernel

/-- Rule R197. -/
theorem test_start_sets :
    (after State.reset 0x1400000000000000000000000000000000000000000000000000).run = true := by
  decide +kernel

/-- Rule R198: the batch in progress is not cut. -/
theorem test_stop_clears :
    let s : State := { State.reset with run := true, batchRem := 7 }
    let t := after s 0x1500000000000000000000000000000000000000000000000000
    t.run = false ∧ t.batchRem = 7 := by
  decide +kernel

/-- Rule R201. -/
theorem test_clrOverrun_clears :
    let s : State := { State.reset with overrun := true, fifo := [5] }
    let t := after s 0x1600000000000000000000000000000000000000000000000000
    t.overrun = false ∧ t.fifo = [5] := by
  decide +kernel

/-- Rule R88: a word with a reserved opcode is taken and changes nothing. -/
theorem test_reserved_is_dropped :
    step (State.reset.withFetchWord 208 0x1700000000000000000000000000000000000000000000000000)
      = .next State.reset := rfl

/-- A table word is read as its row says (rule R12). -/
theorem test_decodeTableWord :
    decodeTableWord 208 0x0408000000000016000000000000000000000000000000000000 = some (.setAlgorithm 1 22) ∧
    decodeTableWord 208 0x1700000000000000000000000000000000000000000000000000 = none := by decide

/-! ### Numbers and tables -/

/-- Rule R10: ties go away from zero. -/
theorem test_rnd_ties : rnd 1 2 = 1 ∧ rnd (-1) 2 = -1 ∧ rnd 5 2 = 3 ∧ rnd 1 3 = 0 ∧ rnd (-5) 3 = -2 := by
  decide

/-- Rule R102, corner cases of the table. -/
theorem test_wave_corners :
    waveQ .sine 6588397 = 4194299 ∧ waveQ .sine 26353588 = -6434 ∧ waveQ .sawtooth 26353588 = 4194304 ∧
    waveQ .square 13176794 = 4194304 ∧ waveQ .square 13176795 = -4194304 ∧
    waveQ .triangle 6434 = -4190208 ∧ waveQ .triangle 26353588 = -4194303 := by
  decide +kernel

/-- Rule R101, worked example: a negative offset wraps upward. -/
theorem test_effPhase_wraps :
    effPhase { Op.reset with phase := 1000000, modidx := 8388608 } (-4194304) = 18964981 := by decide +kernel

/-- Rule R104. -/
theorem test_gen_examples :
    gen op104 0 = 333415 ∧ gen op104 4194304 = 1111946 ∧ gen op104 (-4194304) = -1389634 ∧
    gen op104 41943040 = 1392058 ∧ gen { op104 with wave := .sawtooth } 0 = -1308148 := by
  decide +kernel

/-- Rule R182, vectors. -/
theorem test_pinc_vectors :
    pinc 1845493760 8000 = 1449447 ∧ pinc 1845493760 44100 = 262938 ∧ pinc 1845493760 192000 = 60394 ∧
    pinc 52612736804 8000 = 41321946 ∧ pinc 4194304 44100 = 598 := by
  decide +kernel

/-- Rule R184, the table. -/
theorem test_tstep_table :
    tstepOf 8000 = 536871 ∧ tstepOf 32768 = 131072 ∧ tstepOf 44100 = 97392 ∧ tstepOf 192000 = 22370 := by
  decide

/-- Rule R185, worked examples. -/
theorem test_phaseAdvance :
    (phaseAdvance { Op.reset with phase := 26300000, pinc := 262938 }).phase = 209349 ∧
    (phaseAdvance { Op.reset with pinc := 60000000 }).phase = 7292822 ∧
    mulQ 262938 4443710 = 278573 := by
  decide

/-- Rules R181 and R212: entries of the note table; rule R131's ratio 3.5. -/
theorem test_noteRom :
    noteRom 0 = 34291786 ∧ noteRom 60 = 1097337155 ∧ noteRom 69 = 1845493760 ∧
    noteRom 127 = 52612736804 ∧ mulQ (noteRom 60) 14680064 = 3840680043 := by
  decide +kernel

/-- Rules R123, R124 and R213: the pinned rows; the table is legal. -/
theorem test_algRom :
    algRom 31 = allCarriersRow ∧ algRom 22 = allIntoOneRow ∧ algRom 0 = { edge := 0x408100040, car := 5 } ∧
    legalAlgRom algRom = true := by
  decide +kernel

/-- Rule R121: an operator that modulates itself, and a loop of two, are cycles. -/
theorem test_cyclic_rows_rejected :
    acyclic { edge := 0x1, car := 1 } = false ∧ acyclic { edge := 0x42, car := 1 } = false ∧
    acyclic { edge := 0x40, car := 1 } = true := by
  decide +kernel

/-- Rules R122 and R123, worked examples, and the table of spec/42. -/
theorem test_route_examples :
    route (algRom 22) sixOps = -3395531 ∧ route (algRom 31) sixOps = 17124916 ∧
    route (algRom 0) sixOps = 6847595 ∧ route (algRom 4) sixOps = 10312927 ∧
    route (algRom 17) sixOps = 3042145 := by
  decide +kernel

/-- Rules R112 and R113, worked examples at 32768 Hz. -/
theorem test_envelope_attack :
    let o : Op := { Op.reset with es := .attack, atk := 32768, dcy := 524288, sus := 2097152 }
    (envStep 131072 o).el = 16384 ∧
    (envStep 131072 { o with et := 33423360 }).es = .decay ∧
    (envStep 131072 { o with et := 33423360 }).et = 0 ∧
    (envStep 131072 { o with es := .decay, el := 4194304 }).el = 4193792 := by
  decide +kernel

/-- Rule R115, worked example at 32768 Hz. -/
theorem test_envelope_release :
    let o : Op := { Op.reset with es := .release, rel := 1048576, sus := 2097152 }
    (envStep 131072 o).el = 2096896 ∧ (envStep 131072 { o with et := 1073610752 }).es = .off ∧
    (envStep 131072 { o with et := 1073610752 }).el = 0 := by
  decide +kernel

/-- Rule R146, vectors. -/
theorem test_convert_vectors :
    convert 256 = 0 ∧ convert 257 = 1 ∧ convert (-257) = -1 ∧ convert 4194561 = 8191 ∧
    convert (-4194561) = -8192 ∧ convert 17124916 = 8191 ∧ convert (-3395531) = -6631 := by
  decide

/-- The illustrative constants of rules R191 to R193, and the two points of the curve they use. -/
def exampleFx : FxParams :=
  { gainMult := 16777216, chorusFreq := 419430400, chorusDepth := 1048576, reverbGain := 2097152,
    tanhQ := fun x => if x = 6291456 then 3796467 else if x = -6291456 then -3796467 else 0 }

/-- Rules R191 to R193, worked examples: each stage, then all three. -/
theorem test_fx_examples :
    fxDistort exampleFx 2097152 2097152 = 3796467 ∧
    fxChorus exampleFx 4194304 57904 2097152 = 2104390 ∧
    fxReverb exampleFx 2097152 2097152 = 2621440 ∧ chorusLfoWith exampleFx 44100 = 57904 ∧
    fxWith exampleFx { State.reset with dist := 2097152, chorus := 4194304, reverb := 2097152,
                                        chorusLfo := 57904 } 2097152 = 4761963 := by
  decide +kernel

/-! ### Ticks, pops, reset -/

/-- Rule R149, tick 2: the level, the phase after, and the frame. -/
theorem test_tick_second :
    let t := afterEvent (note60 97392 12174 156344) .tick
    t.voices[0].ops[0].el = 24348 ∧ t.voices[0].ops[0].phase = 312688 ∧ t.fifo = [2, 0] ∧
    t.batchRem = 255 := by
  decide +kernel

/-- Rule R149, tick 5. -/
theorem test_tick_fifth :
    (afterEvent (note60 389568 48696 625376) .tick).fifo = [16, 0] := by
  decide +kernel

/-- Rule R196: no frame without `RUN`, and none without an active voice. -/
theorem test_tick_idle :
    (afterEvent { note60 0 0 0 with run := false } .tick).fifo = [] ∧
    (afterEvent { State.reset with run := true } .tick).fifo = [] := by
  decide +kernel

/-- Rules R196 and R199: a batch runs on without `RUN`; a frame that finds one free word is lost. -/
theorem test_tick_overrun :
    let s : State := { note60 97392 12174 156344 with run := false, batchRem := 1,
                                                      fifo := List.replicate 1023 7 }
    (afterEvent s .tick).overrun = true ∧ (afterEvent s .tick).fifo.length = 1023 ∧
    (afterEvent s .tick).batchRem = 0 ∧ (afterEvent s .tick).voices[0].ops[0].phase = 312688 := by
  decide +kernel

/-- Rules R141 and R143: a voice whose six operators are OFF is freed in the tick. -/
theorem test_tick_reclaims :
    let t := afterEvent { trio with batchRem := 2 } .tick
    t.voices[2].active = false ∧ t.voices[2].note = -1 ∧ t.fifo = [0, 0] := by
  decide +kernel

/-- Rule R202. -/
theorem test_pop_takes_head :
    let t := afterEvent { State.reset with fifo := [2, 0] } .pop
    t.fifo = [0] ∧ t.delivered = [2] ∧ t.pending = [] := by
  decide +kernel

/-- Rules R203 and R207: a held `POP` stays and the command behind it runs. -/
theorem test_pop_held :
    let t := match step { State.reset with pending := [.pop, .command (encode .start)] } with
      | .next t => t
      | _ => State.reset
    t.pending = [.pop] ∧ t.run = true := by
  decide +kernel

/-- Rule R240. -/
theorem test_reset_event :
    let t := afterEvent { note60 97392 12174 156344 with fifo := [1, 2], overrun := true } .reset
    t.run = false ∧ t.fifo = [] ∧ t.overrun = false ∧ t.voices[0].active = false ∧ t.fs = 44100 := by
  decide +kernel

/-- Rule R45. -/
theorem test_status_outputs :
    avail { State.reset with fifo := [1, 2] } = 2 ∧ hasData State.reset = false ∧ anyActive trio = true ∧
    chActive trio 0 = true ∧ chActive trio 1 = false := by
  decide +kernel

/-- Rules R92 and R93: `NOTE_ON_CH` is two commands; the default velocity is 1.0; a preset is twelve. -/
theorem test_assembler :
    noteOnCh 3 60 defaultVel = [.setCurChan 3, .noteOn 60 4194304] ∧
    (presetConfig fun _ => { ratio := 0, amp := 0, mi := 0, wave := 0, a := 0, d := 0, su := 0, r := 0 }).length
      = 12 ∧
    (AsmLine.ticks 3).events = [.tick, .tick, .tick] := by
  decide +kernel

/-! ### Witnesses: the hypotheses of the statements can be met, clause by clause, at the ends of their ranges -/

/-- `DecodeOfEncodeIsIdentity` (second clause) and the `OpcodeDecodes` clause of every command: each of
the 23 opcodes has a word. -/
theorem wit_opcodes : ∀ n : Fin 23,
    (opcField (fieldsWord (BitVec.ofNat 8 n.val) 31 7 0 0 0 0)).toNat = n.val := by decide +kernel

/-- `ReservedOpcodesAreDropped`: both clauses, at 0x16, 0x17 and 0xFF. -/
theorem wit_reserved :
    (opcField (fieldsWord 0x16 0 0 0 0 0 0)).toNat ≤ 0x16 ∧
    0x17 ≤ (opcField (fieldsWord 0x17 0 0 0 0 0 0)).toNat ∧
    0x17 ≤ (opcField (fieldsWord 0xFF 0 0 0 0 0 0)).toNat := by decide

/-- `StepExecutesPresentedCommand`: a command presented, and a reserved word presented. -/
theorem wit_presented :
    (∃ (s : State) (rest : List Event), s.pending = .command (encode .start) :: rest ∧
      decode (encode .start) = .ok .start) ∧
    ∃ (s : State) (rest : List Event), s.pending = .command (fieldsWord 0x17 0 0 0 0 0 0) :: rest ∧
      decode (fieldsWord 0x17 0 0 0 0 0 0) = .error (.reservedOpcode 0x17) :=
  ⟨⟨{ State.reset with pending := [.command (encode .start), .tick] }, [.tick], rfl, by decide⟩,
    ⟨{ State.reset with pending := [.command (fieldsWord 0x17 0 0 0 0 0 0)] }, [], rfl, by decide⟩⟩

/-- `StepExecutesPresentedCommand`, the clauses on `withFetchWord`: a command and a reserved word. -/
theorem wit_fetchWord :
    decode (encode .stop) = .ok .stop ∧
    decode (fieldsWord 0xFF 0 0 0 0 0 0) = .error (.reservedOpcode 0xFF) := by decide

/-- `EveryEventAnswersANextState`: an event that is no `POP`, a `POP` with one word queued, and an empty
FIFO. -/
theorem wit_events :
    (Event.reset = .pop → 1 ≤ avail State.reset) ∧
    (Event.pop = .pop → 1 ≤ avail { State.reset with fifo := [5] }) ∧ State.reset.fifo = [] :=
  ⟨nofun, fun _ => Nat.le_refl 1, rfl⟩

/-- `HeldPopStopsOnlyTheSink`: two held requests alone, and with a tick behind them. -/
theorem wit_heldPop :
    (∃ s : State, s.fifo = [] ∧ s.pending = List.replicate 2 .pop) ∧
    ∃ s : State, s.fifo = [] ∧ Event.tick ≠ .pop ∧
      s.pending = List.replicate 2 .pop ++ .tick :: [.pop] :=
  ⟨⟨{ State.reset with pending := [.pop, .pop] }, rfl, rfl⟩,
    ⟨{ State.reset with pending := [.pop, .pop, .tick, .pop] }, rfl, by decide, rfl⟩⟩

/-- `PopReturnsTheHeadWord`: one word queued. -/
theorem wit_pop : ∃ s : State, s.fifo = 5 :: [] ∧ s.pending = .pop :: [.reset] :=
  ⟨{ State.reset with fifo := [5], pending := [.pop, .reset] }, rfl, rfl⟩

/-- The dropping clauses of every command with an index, a code or a note: each side of each check at the
first value it refuses. `DroppedCommandChangesNothing` has the `test_wf_` theorems above. -/
theorem wit_dropped :
    15 < (16 : IdxField).toNat ∧ 7 < (8 : IdxField).toNat ∧ 5 < (6 : OpiField).toNat ∧
    (BitVec.ofInt 48 (-1)).toInt < 0 ∧ 3 < (4 : Arg).toInt ∧ 31 < (32 : Arg).toInt ∧
    127 < (128 : Arg).toInt := by decide

/-- `NoteOnStartsTheLowestFreeVoice`: voice 0 free, voice 15 the only free one, all active. -/
theorem wit_noteOn :
    (State.reset.voices[(0 : Fin 16)].active = false ∧
      ∀ u : Fin 16, u < 0 → State.reset.voices[u].active = true) ∧
    (∃ s : State, s.voices[(15 : Fin 16)].active = false ∧
      ∀ u : Fin 16, u < 15 → s.voices[u].active = true) ∧
    ∀ u : Fin 16, crowd.voices[u].active = true :=
  ⟨by decide +kernel,
    ⟨{ State.reset with voices := Vector.ofFn fun v : Fin 16 =>
        if v.val < 15 then held 60 else Voice.reset }, by decide +kernel⟩, by decide +kernel⟩

/-- `CommandsButNoteOnAreIdempotent`: `START` is no `NOTE_ON` and answers a next state. -/
theorem wit_idempotent :
    (∀ n vel, Instr.start ≠ .noteOn n vel) ∧ exec .start State.reset = .next { State.reset with run := true } :=
  ⟨nofun, rfl⟩

/-- `OnlyNamedCommandsWriteEachRegister`: `NOP` is none of the commands named in the clauses. -/
theorem wit_writers :
    exec .nop State.reset = .next State.reset ∧ (∀ a, Instr.nop ≠ .setSampleRate a) ∧
    (∀ a, Instr.nop ≠ .setMasterVol a) ∧ (∀ a, Instr.nop ≠ .setReverb a) ∧
    (∀ a, Instr.nop ≠ .setChorus a) ∧ (∀ a, Instr.nop ≠ .setDistortion a) ∧
    (∀ c, Instr.nop ≠ .setCurChan c) ∧ Instr.nop ≠ .start ∧ Instr.nop ≠ .stop ∧
    Instr.nop ≠ .clrOverrun ∧ (∀ o a b c d, Instr.nop ≠ .setTplOsc o a b c d) ∧
    (∀ o a b c d, Instr.nop ≠ .setTplEnv o a b c d) ∧ (∀ c a, Instr.nop ≠ .setAlgorithm c a) ∧
    (∀ c a, Instr.nop ≠ .setPitchBend c a) ∧ ∀ c a, Instr.nop ≠ .setModWheel c a := by
  refine ⟨rfl, ?_, ?_, ?_, ?_, ?_, ?_, ?_, ?_, ?_, ?_, ?_, ?_, ?_, ?_⟩ <;> nofun

/-- `OnlyNamedCommandsWriteEachRegister`, the clauses on voices and operators: `NOP` again. -/
theorem wit_voice_writers :
    (∀ n vel, Instr.nop ≠ .noteOn n vel) ∧ (∀ x y a, Instr.nop ≠ .setOpFreq x y a) ∧
    (∀ x y a, Instr.nop ≠ .setOpAmp x y a) ∧ (∀ x y a, Instr.nop ≠ .setOpModidx x y a) ∧
    (∀ x y a, Instr.nop ≠ .setOpWave x y a) ∧ (∀ x y a b c d, Instr.nop ≠ .setEnvelope x y a b c d) ∧
    (∀ n, Instr.nop ≠ .noteOff n) ∧ Instr.nop ≠ .allNotesOff := by
  refine ⟨?_, ?_, ?_, ?_, ?_, ?_, ?_, ?_⟩ <;> nofun

/-- `CommandsNeverSetLevelsOrPhases`: a command that leaves a level, and a `NOTE_ON` that clears one. -/
theorem wit_levels :
    (note60 97392 12174 156344).voices[(0 : Fin 16)].ops[(0 : Fin 6)].el = 12174 ∧
    exec .nop (note60 97392 12174 156344) = .next (note60 97392 12174 156344) ∧
    ∃ s t : State, s.voices[(0 : Fin 16)].active = true ∧ s.voices[(0 : Fin 16)].ops[(0 : Fin 6)].el = 9 ∧
      exec (.noteOn 60 0) s = .next t ∧ t.voices[(0 : Fin 16)].ops[(0 : Fin 6)].el = 0 := by
  refine ⟨by decide +kernel, rfl, ?_⟩
  let vc : Voice := { held 1 with ops := Vector.replicate 6 { Op.reset with el := 9 } }
  exact ⟨{ State.reset with voices := Vector.replicate 16 vc }, _, by decide +kernel,
    by decide +kernel, rfl, by decide +kernel⟩

/-- `RoundingIsNearestTiesAway`: the least denominator, and a tie; a value on each side of a range and at
each of its ends, and a range of one value. -/
theorem wit_rounding :
    (0 : Int) < 1 ∧ (0 : Int) < 2 ∧ 2 * |(1 : Int) - 2 * rnd 1 2| = 2 ∧ (0 : Int) ≤ one ∧
    (-1 : Int) < 0 ∧ one < one + 1 ∧ Within 0 0 one ∧ Within one 0 one ∧ (7 : Int) ≤ 7 ∧ Within 7 7 7 := by
  decide

/-- `IncrementAndTimeStepFitTheirRegisters`: both ends of both ranges. -/
theorem wit_increment :
    Within 0 0 qmax ∧ Within qmax 0 qmax ∧ Within 8000 8000 192000 ∧ Within 192000 8000 192000 := by decide

/-- `PhaseAdvanceWraps`: unbent; increment 0 and bend 0 at the last phase. -/
theorem wit_phase :
    Op.reset.pb = one ∧
    ((0 : Int) = 0 ∧ Within { Op.reset with phase := 26353588, pinc := 0 }.phase 0 26353588) ∧
    ({ Op.reset with pb := 0 }.pb = 0 ∧ Within { Op.reset with pb := 0 }.phase 0 26353588) := by decide

/-- `SineTableIsSymmetric` and `WaveformsStayInUnitRange`: the ends of the ranges, the last phase below
half a turn and the first at or above it. -/
theorem wit_waves :
    (0 : Nat) ≤ 1024 ∧ (1024 : Nat) ≤ 1024 ∧ (2047 : Nat) ≤ 2047 ∧ Within 0 0 26353588 ∧
    Within 26353588 0 26353588 ∧ (2 * 13176794 : Int) < 26353589 ∧ (26353589 : Int) ≤ 2 * 13176795 := by
  decide

/-- An operator with registers in range: in a state, at a time, with the sustain level 0.5. -/
def legalOp (es : EnvState) (et : Int) : Op :=
  { Op.reset with es := es, et := et, sus := 2097152, amp := 4194304, el := 4194304, vel := 4194304 }

/-- The operators of `legalOp` have legal registers. -/
theorem legalOp_inv (es : EnvState) (et : Int) (h : Within et 0 etMax) : OpInv 44100 (legalOp es et) := by
  have base : OpInv 44100 (legalOp .off 0) := by
    refine ⟨?_, ?_, ?_, ?_, ?_, ?_, ?_, ?_, ?_, ?_, ?_, ?_, ?_, ?_, ?_⟩ <;> decide
  exact { base with et := h }

/-- `OutputsStayInRange`, the clause on the value: the second row of the table of rule R104. -/
theorem wit_gen :
    (8388608 : Int) = rnd (4194304 * op104.modidx) 4194304 ∧
    (9388608 : Int) = (op104.phase + 8388608) % 26353589 := by decide

/-- `OutputsStayInRange`: a loud legal operator, an operator silent for each of the three reasons, and
six legal operators. -/
theorem wit_outputs :
    OpInv 44100 (legalOp .sustain 0) ∧ Op.reset.amp = 0 ∧ Op.reset.el = 0 ∧ Op.reset.vel = 0 ∧
    ∀ i : Fin 6, OpInv 44100 (Vector.replicate 6 (legalOp .sustain 0))[i] :=
  ⟨legalOp_inv _ _ (by decide), rfl, rfl, rfl, fun i => by
    simpa using legalOp_inv .sustain 0 (by decide)⟩

/-- `EnvelopeStepFollowsItsState`: each clause, at the last step before and the first step at the limit
(`4096 * 2^10 = 4194304`). -/
theorem wit_envelope_step :
    ((legalOp .attack 4194303).es = .attack ∧
      (legalOp .attack 4194303).atk * 2 ^ 10 ≤ min ((legalOp .attack 4194303).et + 1) (2 ^ 64 - 1)) ∧
    ((legalOp .attack 4194302).es = .attack ∧
      min ((legalOp .attack 4194302).et + 1) (2 ^ 64 - 1) < (legalOp .attack 4194302).atk * 2 ^ 10) ∧
    ((legalOp .decay 4194303).es = .decay ∧
      (legalOp .decay 4194303).dcy * 2 ^ 10 ≤ min ((legalOp .decay 4194303).et + 1) (2 ^ 64 - 1)) ∧
    ((legalOp .decay 4194302).es = .decay ∧ (legalOp .decay 4194302).sus ≠ one ∧
      min ((legalOp .decay 4194302).et + 1) (2 ^ 64 - 1) < (legalOp .decay 4194302).dcy * 2 ^ 10) ∧
    (legalOp .sustain 0).es = .sustain ∧
    ((legalOp .release 4194303).es = .release ∧
      (legalOp .release 4194303).rel * 2 ^ 10 ≤ min ((legalOp .release 4194303).et + 1) (2 ^ 64 - 1)) ∧
    ((legalOp .release 4194302).es = .release ∧ (legalOp .release 4194302).sus ≠ 0 ∧
      min ((legalOp .release 4194302).et + 1) (2 ^ 64 - 1) < (legalOp .release 4194302).rel * 2 ^ 10) ∧
    (legalOp .off 0).es = .off := by
  decide +kernel

/-- `EnvelopeLevelIsMonotone`: an operator that stays in its state, for each of the three clauses; the
second step of the first one leaves it. -/
theorem wit_envelope_monotone :
    OpInv 44100 (legalOp .attack 4194302) ∧ OpInv 44100 (legalOp .decay 0) ∧
    OpInv 44100 (legalOp .release 4194302) ∧
    (envStep 1 (legalOp .attack 4194302)).es = .attack ∧ (envStep 1 (legalOp .decay 0)).es = .decay ∧
    (envStep 1 (legalOp .release 4194302)).es = .release := by
  refine ⟨legalOp_inv _ _ (by decide), legalOp_inv _ _ (by decide), legalOp_inv _ _ (by decide), ?_⟩
  decide +kernel

/-- `AttackAndReleaseLastTheirTimes`: both clauses. -/
theorem wit_envelope_times :
    OpInv 44100 (legalOp .attack 0) ∧ OpInv 44100 (legalOp .release 0) ∧ (legalOp .attack 0).et = 0 ∧
    (legalOp .release 0).et = 0 ∧ (legalOp .attack 0).es = .attack ∧ (legalOp .release 0).es = .release ∧
    (legalOp .release 0).sus ≠ 0 :=
  ⟨legalOp_inv _ _ (by decide), legalOp_inv _ _ (by decide), rfl, rfl, rfl, rfl, by decide⟩

/-- `RouterSolvesTheModulationEquations`: an acyclic row with edges; and, for the clause on a solution, the
row without edges and its outputs. -/
theorem wit_router :
    acyclic (algRom 0) = true ∧ acyclic allCarriersRow = true ∧
    ∀ t : Fin 6, (fun t : Fin 6 => gen sixOps[t] 0) t = gen sixOps[t] (rnd (∑ m : Fin 6,
      if modulates allCarriersRow m t then (fun t : Fin 6 => gen sixOps[t] 0) m * sixOps[m].modidx
      else 0) one) := by
  refine ⟨by decide +kernel, by decide +kernel, fun t => ?_⟩
  have h : ∀ m t : Fin 6, modulates allCarriersRow m t = false := by decide
  simp [h]

/-- `PinnedAlgorithmsAreAsTheSourceFixesThem`: the table of this machine is legal. -/
theorem wit_pinned : legalAlgRom algRom = true := by decide +kernel

/-- Another legal table: row 0 has six carriers. -/
def otherRom : AlgRom := fun a => if a = 0 then allCarriersRow else algRom a

/-- The statements over configured hardware: a table other than this machine's configures it (rule R125). -/
theorem wit_configured : otherRom 0 ≠ algRom 0 ∧ configure otherRom = some (stepWith otherRom) := by
  have h : otherRom 0 ≠ algRom 0 ∧ legalAlgRom otherRom = true := by decide +kernel
  exact ⟨h.1, if_pos h.2⟩

/-- Rules R121, R123 and R124 and spec/93 I2: a table without the pinned rows, and one with a cyclic row,
are refused. -/
theorem test_configure_refuses :
    (configure fun _ => allCarriersRow).isNone = true ∧
    (configure fun a => if a = 0 then { edge := 0x1, car := 1 } else algRom a).isNone = true := by
  decide +kernel

/-- `EveryVoiceRunsThePipeline`: a free voice, a voice about to be freed, a sounding voice. -/
theorem wit_pipeline :
    State.reset.voices[(0 : Fin 16)].active = false ∧
    (trio.voices[(2 : Fin 16)].active = true ∧
      ∀ i : Fin 6, (envStep trio.tstep trio.voices[(2 : Fin 16)].ops[i]).es = .off) ∧
    ((note60 0 0 0).voices[(0 : Fin 16)].active = true ∧
      ¬ ∀ i : Fin 6, (envStep (note60 0 0 0).tstep (note60 0 0 0).voices[(0 : Fin 16)].ops[i]).es = .off) := by
  decide +kernel

/-- `VoiceOrderIsNotObservable`: the descending order is an order of the sixteen voices. -/
theorem wit_order : (List.finRange 16).reverse.Perm (List.finRange 16) := List.reverse_perm _

/-- `SilentSidesGiveZero`: no even voice, no odd voice, no voice at all, volume 0. -/
theorem wit_silent :
    (∃ s : State, (∀ v : Fin 16, v.val % 2 = 0 → s.voices[v].active = false) ∧
      s.voices[(1 : Fin 16)].active = true) ∧
    (∀ v : Fin 16, v.val % 2 = 1 → (note60 0 0 0).voices[v].active = false) ∧
    anyActive State.reset = false ∧ { trio with mvol := 0 }.mvol = 0 :=
  ⟨⟨{ State.reset with voices := Vector.ofFn fun v : Fin 16 => if v.val = 1 then held 60 else Voice.reset },
      by decide +kernel⟩, by decide +kernel, by decide +kernel, rfl⟩

/-- `EffectsAreOddAndIdentityAtZero`, the clause on the three stages: the values between them in the
example of rule R193 with all three on. -/
theorem wit_fx_stages :
    (3796467 : Int) = (if 0 < (2097152 : Int) then exampleFx.tanhQ (rnd (2097152 *
      (2 ^ 22 + rnd (2097152 * exampleFx.gainMult) (2 ^ 22))) (2 ^ 22)) else 2097152) ∧
    (3809570 : Int) = (if 0 < (4194304 : Int) then rnd (3796467 * (2 ^ 22 + rnd
      (rnd (57904 * 4194304) (2 ^ 22) * exampleFx.chorusDepth) (2 ^ 22))) (2 ^ 22) else 3796467) := by
  decide

/-- `EffectsAreOddAndIdentityAtZero`: the amounts after reset, and an odd curve. -/
theorem wit_effects :
    State.reset.dist = 0 ∧ State.reset.chorus = 0 ∧ State.reset.reverb = 0 ∧
    ∃ p : FxParams, ∀ x, p.tanhQ (-x) = -p.tanhQ x :=
  ⟨rfl, rfl, rfl, { exampleFx with tanhQ := id }, fun _ => rfl⟩

/-- `DistortionCurveIsFree`: a curve with the five properties that is not constant. -/
theorem wit_curve :
    ∃ f : Int → Int, f 1 = 1 ∧ f 0 = 0 ∧ (∀ x, f (-x) = -f x) ∧ (∀ x y, x ≤ y → f x ≤ f y) ∧
      ∀ x, Within (f x) (-one) one := by
  refine ⟨fun x => clamp x (-one) one, by decide, by decide, fun x => ?_, fun x y h => ?_,
    fun x => clamp_within (by decide)⟩
  · simp only [clamp, one]
    split <;> split <;> (try split) <;> (try split) <;> omega
  · simp only [clamp, one]
    split <;> split <;> (try split) <;> (try split) <;> omega

/-- `TickRunsTheBatchSequencer` and `BatchRunsToItsEnd`: idle, starting, and in a batch that just fits. -/
theorem wit_tick :
    (State.reset.batchRem = 0 ∧
      ¬ (State.reset.run = true ∧ ∃ v : Fin 16, State.reset.voices[v].active = true)) ∧
    ((note60 0 0 0).batchRem = 0 ∧ (note60 0 0 0).run = true ∧
      ∃ v : Fin 16, (note60 0 0 0).voices[v].active = true) ∧
    ∃ s : State, 0 < s.batchRem ∧ s.batchRem = 256 ∧ s.fifo.length + 2 * 256 ≤ 1024 :=
  ⟨by decide +kernel, by decide +kernel,
    ⟨{ State.reset with batchRem := 256, fifo := List.replicate 512 0 }, by decide +kernel⟩⟩

/-- `FramesEnterTheFifoWholeOrNotAtAll`: exactly two free words, and one. -/
theorem wit_fifo :
    2 ≤ 1024 - avail { State.reset with fifo := List.replicate 1022 0 } ∧
    ¬ 2 ≤ 1024 - avail { State.reset with fifo := List.replicate 1023 0 } := by
  decide +kernel

/-- `BatchRunsToItsEnd`, `TickKeepsEveryParameter`, `OverrunNeverAffectsSynthesis` and
`StreamKeepsPushOrder`: a tick that makes a frame, and one that loses it. -/
theorem wit_synthesis :
    ∃ t u : State, tickWith algRom Config.fx { State.reset with batchRem := 1 } = t ∧
      tickWith algRom Config.fx
        { State.reset with batchRem := 1, fifo := List.replicate 1024 0, overrun := true } = u ∧
      Event.tick ≠ .reset ∧ perform .tick State.reset = .next State.reset ∧ t.fifo.length = 2 ∧
      u.fifo.length = 1024 :=
  ⟨_, _, rfl, rfl, by decide, rfl, by decide +kernel, by decide +kernel⟩

/-- `EveryStepKeepsLegalRanges`: a state other than that after reset has the invariant, and it steps. -/
theorem wit_legal : ∃ s t : State, s.Inv ∧ s.run = true ∧ step s = .next t := by
  refine ⟨{ State.reset with run := true }, _, ?_, rfl, rfl⟩
  have hop : OpInv 44100 Op.reset := by
    refine ⟨?_, ?_, ?_, ?_, ?_, ?_, ?_, ?_, ?_, ?_, ?_, ?_, ?_, ?_, ?_⟩ <;> decide
  refine ⟨fun v => ?_, fun c => ?_, fun i => ?_, by decide, by decide, by decide, by decide, by decide,
    by decide, ?_, rfl, Nat.zero_le _, Nat.zero_le _, by simp [State.reset], by simp [State.reset]⟩
  · have hv : State.reset.voices[v] = Voice.reset := by simp [State.reset]
    rw [hv]
    exact ⟨fun _ => rfl, nofun, by decide, fun i => by simpa [Voice.reset, State.reset] using hop⟩
  · have hc : State.reset.chans[c] = Channel.reset := by simp [State.reset]
    rw [hc]
    exact ⟨by decide, by decide⟩
  · have ht : State.reset.tpl[i] = TplRow.reset i := by simp [State.reset]
    rw [ht]
    refine ⟨?_, ?_, ?_, ?_, ?_, ?_, ?_⟩ <;> revert i <;> decide
  · rw [show State.reset.chorusLfo = chorusLfoOf 44100 by simp only [State.reset]]
    exact chorusLfoOf_within _

/-- `EveryStepKeepsFrameAlignment`: one word popped, one queued. -/
theorem wit_aligned : ∃ s t : State, s.FrameAligned ∧ s.fifo.length = 1 ∧ step s = .next t :=
  ⟨{ State.reset with fifo := [0], delivered := [2] }, _, rfl, rfl, rfl⟩

/-- `ModulationWheelIsInaudible`: both machines step. -/
theorem wit_wheel :
    ∃ s t u : State, s.chans[(0 : Fin 8)].mw = 7 ∧ step s = .next t ∧ step (eraseWheels s) = .next u :=
  ⟨{ State.reset with chans := Vector.replicate 8 { Channel.reset with mw := 7 } }, _, _,
    by decide +kernel, rfl, rfl⟩

/-- `FreeVoicesAreUnobservable`: a free voice with a register written, and both machines step. -/
theorem wit_freeVoices :
    ∃ s t u : State, s.voices[(3 : Fin 16)].active = false ∧
      s.voices[(3 : Fin 16)].ops[(0 : Fin 6)].amp = 5 ∧ step s = .next t ∧ step (eraseFree s) = .next u :=
  ⟨State.reset.updOp 3 0 fun o => { o with amp := 5 }, _, _, by decide +kernel, by decide +kernel, rfl, rfl⟩

end Sys2Proof.Tests
end

section
/-! PROOF. Rounding to the nearest integer and clamping (rules R10, R11). -/

namespace Sys2Proof.Machine

/-- The defining bounds of the quotient: `d * rnd n d` lies in the half-open interval of width `d` around
`n` that holds its upper end, which is the tie, and not its lower one (rule R10). -/
theorem rnd_bounds_of_nonneg {n d : Int} (hn : 0 ≤ n) (hd : 0 < d) :
    2 * (d * rnd n d) ≤ 2 * n + d ∧ 2 * n - d < 2 * (d * rnd n d) := by
  have hle : 2 * d * ((2 * n + d) / (2 * d)) ≤ 2 * n + d := Int.mul_ediv_self_le (by omega)
  have hlt : 2 * n + d < 2 * d * ((2 * n + d) / (2 * d)) + 2 * d := Int.lt_mul_ediv_self_add (by omega)
  rw [← rnd_nonneg_eq hn, mul_assoc] at hle hlt
  exact ⟨hle, by omega⟩

/-- `d * rnd n d` is within `d / 2` of `n`, and at exactly that distance it is the multiple away from zero
(rule R10). A negative `n` is the mirror image of `-n`, since `rnd` is odd. -/
theorem rnd_nearest (n : Int) {d : Int} (hd : 0 < d) :
    2 * |n - d * rnd n d| ≤ d ∧ (2 * |n - d * rnd n d| = d → |n| ≤ d * |rnd n d|) := by
  wlog hn : 0 ≤ n generalizing n
  · have mirror : -n - d * -rnd n d = -(n - d * rnd n d) := by ring
    have h := this (-n) (by omega)
    rwa [rnd_neg n d hd, mirror, abs_neg, abs_neg, abs_neg] at h
  · obtain ⟨hle, hlt⟩ := rnd_bounds_of_nonneg hn hd
    rw [abs_of_nonneg hn, abs_of_nonneg (rnd_nonneg hn hd)]
    rcases abs_cases (n - d * rnd n d) with ⟨habs, _⟩ | ⟨habs, _⟩
    · -- Rounded down: the strict bound leaves no tie.
      rw [habs]
      exact ⟨by omega, fun tie => absurd tie (by omega)⟩
    · -- Rounded up, ties among them: the multiple is above `n`.
      rw [habs]
      exact ⟨by omega, fun _ => by omega⟩

theorem clamp_of_lt {v lo : Int} (hi : Int) (h : v < lo) : clamp v lo hi = lo := if_pos h

theorem clamp_of_gt {v lo hi : Int} (hle : lo ≤ hi) (h : hi < v) : clamp v lo hi = hi := by
  unfold clamp; rw [if_neg (by omega), if_pos h]

/-- Settles O31: the two bounds of the rounded quotient for a numerator that is not negative, mirrored by
oddness, and the three cases of `clamp`. -/
theorem roundingIsNearestTiesAway : Obligations.RoundingIsNearestTiesAway := by
  refine ⟨fun n d hd => ?_, fun v lo hi hle => ⟨clamp_of_lt hi, clamp_of_gt hle, fun hv => ?_⟩⟩
  · obtain ⟨hnear, htie⟩ := rnd_nearest n hd
    exact ⟨hnear, htie, rnd_neg n d hd⟩
  · obtain ⟨hlo, hhi⟩ := hv
    exact clamp_of_within hlo hhi

end Sys2Proof.Machine
end

section
/-! PROOF. Every event and every step answers a next state (rules R15, R220, R235). -/

namespace Sys2Proof.Machine

/-- A command word is executed or dropped, and both answer a next state (rules R88, R220). -/
theorem runWord_next (w : CommandWord) (s : State) : ∃ t, runWord w s = .next t := by
  cases hw : decode w with
  | ok i => rw [runWord_ok hw]; exact exec_next i s
  | error e => exact ⟨s, runWord_error hw s⟩

theorem performWith_next (rom : Config.AlgRom) (e : Event) (s : State) :
    ∃ t, performWith rom e s = .next t := by
  cases e with
  | command w => exact runWord_next w s
  | tick => exact ⟨tickWith rom Config.fx s, rfl⟩
  | pop => exact ⟨pop s, rfl⟩
  | reset => exact ⟨resetMachine s, rfl⟩

/-- A step performs the event taken next, or waits where none is enabled (log 2). -/
theorem stepWith_next (rom : Config.AlgRom) (s : State) : ∃ t, stepWith rom s = .next t := by
  cases hn : nextEvent s with
  | none => exact ⟨s, stepWith_none rom hn⟩
  | some p => rw [stepWith_some rom hn]; exact performWith_next rom p.1 _

/-- A `POP` on an empty FIFO changes nothing (log 21). -/
theorem pop_of_empty {s : State} (h : s.fifo = []) : pop s = s := by
  rcases pop_cases s with ⟨_, hpop⟩ | ⟨w, rest, hfifo, _⟩
  · exact hpop
  · rw [h] at hfifo; cases hfifo

/-- Settles O8, from the totality of commands, events and steps; that of events does not need the word in
the FIFO that a `POP` has by hypothesis. -/
theorem everyEventAnswersANextState : Obligations.EveryEventAnswersANextState :=
  ⟨exec_next, fun e s _ => performWith_next algRom e s,
    fun _ hempty => congrArg Host.Outcome.next (pop_of_empty hempty), stepWith_next algRom⟩

end Sys2Proof.Machine
end

section
/-! PROOF. What every step keeps follows from what every event keeps (rules R125, R235). -/

namespace Sys2Proof.Machine

open Sys2Proof.Config

/-- What holds of the step with every routing table holds of this machine's step and of that of the hardware
configured with any legal table (rule R125). -/
theorem forall_configured {Q : (State → Host.Outcome State Fault Refusal) → Prop}
    (h : ∀ rom, Q (stepWith rom)) :
    Q step ∧ ∀ rom stepOf, configure rom = some stepOf → Q stepOf := by
  refine ⟨h algRom, fun rom stepOf hconf => ?_⟩
  obtain ⟨_, rfl⟩ := configure_eq_some.1 hconf
  exact h rom

/-- Where `f` answers a next state, `P` holds of that state if it held before. -/
def KeptBy (P : State → Prop) (f : State → Host.Outcome State Fault Refusal) : Prop :=
  ∀ s t : State, P s → f s = .next t → P t

/-- A predicate that holds after reset, ignores the presented events and is kept by every command, by
`TICK` and by `POP` is kept by every step (rule R235). -/
theorem keptBy_stepWith {P : State → Prop} (hreset : P State.reset)
    (hpending : ∀ s es, P s → P { s with pending := es }) (hexec : ∀ i, KeptBy P (exec i))
    (htick : ∀ rom s, P s → P (tickWith rom Config.fx s)) (hpop : ∀ s, P s → P (pop s)) (rom : AlgRom) :
    KeptBy P (stepWith rom) := by
  intro s t hs h
  rcases stepWith_cases h with ⟨e, rest, _, hperf⟩ | rfl
  · have hs' := hpending s rest hs
    rcases performWith_cases hperf with ⟨i, hi⟩ | rfl | ⟨_, rfl⟩ | ⟨_, rfl⟩ | ⟨_, rfl⟩
    · exact hexec i _ t hs' hi
    · exact hs'
    · exact htick rom _ hs'
    · exact hpop _ hs'
    · exact hpending _ _ hreset
  · exact hs

end Sys2Proof.Machine
end

section
/-! PROOF. The registers after reset, entry by entry (rule R240), and the status outputs (rules R34, R45). -/

namespace Sys2Proof.Machine

open Sys2Proof.Config

@[simp] theorem reset_voices (v : Fin 16) : State.reset.voices[v] = Voice.reset := by
  simp [State.reset]

@[simp] theorem reset_chans (c : Fin 8) : State.reset.chans[c] = Channel.reset := by
  simp [State.reset]

@[simp] theorem reset_tpl (r : Fin 6) : State.reset.tpl[r] = TplRow.reset r := by
  simp [State.reset]

@[simp] theorem reset_ops (i : Fin 6) : Voice.reset.ops[i] = Op.reset := by
  simp [Voice.reset]

theorem hasData_iff (s : State) : hasData s = true ↔ s.fifo ≠ [] := by
  simp [hasData, avail, Nat.one_le_iff_ne_zero]

theorem anyActive_iff (s : State) : anyActive s = true ↔ ∃ v : Fin 16, s.voices[v].active = true := by
  simp [anyActive]

theorem chActive_iff (s : State) (c : Fin 8) :
    chActive s c = true ↔ ∃ v : Fin 16, s.voices[v].active = true ∧ s.voices[v].chan = c := by
  simp [chActive]

/-- Settles O55: each output is read off the state; after reset no voice is active and the FIFO is empty. -/
theorem statusOutputsReadTheState : Obligations.StatusOutputsReadTheState := by
  have hfree : ∀ v : Fin 16, State.reset.voices[v].active = false := fun v => by rw [reset_voices]; rfl
  refine ⟨fun s => ⟨rfl, hasData_iff s, anyActive_iff s, chActive_iff s⟩, rfl, rfl, ?_, rfl, fun c => ?_⟩
  · rw [← Bool.not_eq_true, anyActive_iff]
    rintro ⟨v, hv⟩
    exact Bool.false_ne_true ((hfree v).symm.trans hv)
  · rw [← Bool.not_eq_true, chActive_iff]
    rintro ⟨v, hv, _⟩
    exact Bool.false_ne_true ((hfree v).symm.trans hv)

end Sys2Proof.Machine
end

section
/-! PROOF. The ranges of the derived registers (rules R182, R184) and the note table (rule R181). -/

namespace Sys2Proof.Machine

open Sys2Proof.Config

theorem pinc_within {f fs : Int} (hf : Within f 0 qmax) (hfs : Within fs fsMin fsMax) :
    Within (pinc f fs) 0 qmax := by
  simp only [Within, qmax, fsMin, fsMax] at hf hfs ⊢
  have hd : 0 < fs * one := by simp only [one]; omega
  exact ⟨rnd_nonneg (by simp only [twoPiQ]; omega) hd,
    rnd_le hd (by simp only [twoPiQ, one]; omega) (by decide)⟩

theorem tstepOf_spec {fs : Int} (hfs : 0 < fs) :
    2 ^ 32 ≤ tstepOf fs * fs ∧ tstepOf fs * fs < 2 ^ 32 + fs :=
  ceilDiv_spec hfs

theorem tstepOf_within {fs : Int} (hfs : Within fs fsMin fsMax) :
    Within (tstepOf fs) 1 (2 ^ 20 - 1) := by
  obtain ⟨hlo, hhi⟩ := hfs
  simp only [fsMin, fsMax] at hlo hhi
  obtain ⟨hge, hlt⟩ := tstepOf_spec (by omega : 0 < fs)
  constructor <;> nlinarith

/-- Each entry of `NOTE_ROM` is the integer nearest to the equal-tempered frequency, by twelfth powers
(rule R181). -/
theorem noteRom_nearest : ∀ n : Fin 128,
    (2 * noteRom n - 1) ^ 12 * 2 ^ 69 < (2 * (440 * 2 ^ 22)) ^ 12 * 2 ^ n.val ∧
    (2 * (440 * 2 ^ 22)) ^ 12 * 2 ^ n.val < (2 * noteRom n + 1) ^ 12 * 2 ^ 69 := by
  decide +kernel

/-- Settles O32: the quotient is the definition, the bounds are those of a rounded and of a ceiled quotient,
and the note table is checked entry by entry. -/
theorem incrementAndTimeStepFitTheirRegisters : Obligations.IncrementAndTimeStepFitTheirRegisters := by
  refine ⟨fun _ _ => rfl, fun f fs hf hfs => ?_, noteRom_nearest⟩
  have hpos : 0 < fs := lt_of_lt_of_le (by decide) hfs.1
  obtain ⟨hge, hlt⟩ := tstepOf_spec hpos
  exact ⟨pinc_within hf hfs, hge, hlt, tstepOf_within hfs⟩

end Sys2Proof.Machine
end

section
/-! PROOF. Updates that change operators only, and updates of one entry of a bank. -/

namespace Sys2Proof.Machine

open Sys2Proof.Config

/-- `t` is `s` with some operators replaced by `f` of them. -/
def OpsOnly (f : Op → Op) (s t : State) : Prop :=
  t = { s with voices := t.voices } ∧
    ∀ v : Fin 16, t.voices[v] = { s.voices[v] with ops := t.voices[v].ops } ∧
      ∀ i : Fin 6, t.voices[v].ops[i] = f s.voices[v].ops[i] ∨ t.voices[v].ops[i] = s.voices[v].ops[i]

theorem opsOnly_refl (f : Op → Op) (s : State) : OpsOnly f s s := ⟨rfl, fun _ => ⟨rfl, fun _ => .inr rfl⟩⟩

theorem opsOnly_updOp (v : Fin 16) (i : Fin 6) (f : Op → Op) (s : State) : OpsOnly f s (s.updOp v i f) := by
  obtain ⟨hrest, hvoices⟩ := onlyOp_updOp v i s f
  refine ⟨hrest, fun v' => ⟨(hvoices v').1, fun i' => ?_⟩⟩
  by_cases h : (v', i') = (v, i)
  · cases h; exact .inl (updOp_get v i s f)
  · exact .inr ((hvoices v').2 i' h)

theorem opsOnly_withOp (idx : IdxField) (opi : OpiField) (f : Op → Op) (s : State) :
    OpsOnly f s (withOp idx opi f s) := by
  rcases withOp_cases idx opi f s with ⟨v, i, _, _, h⟩ | ⟨_, h⟩ <;> rw [h]
  · exact opsOnly_updOp v i f s
  · exact opsOnly_refl f s

theorem opsOnly_releaseWhere (p : Voice → Bool) (s : State) :
    OpsOnly (fun o => { o with es := .release, et := 0 }) s (releaseWhere p s) := by
  obtain ⟨hrest, hvoices⟩ := releaseWhere_spec p s
  refine ⟨hrest, fun v => ⟨(hvoices v).1, fun i => ?_⟩⟩
  rw [(hvoices v).2 i]
  split
  · exact .inl rfl
  · exact .inr rfl

theorem opsOnly_broadcast (c : Fin 8) (f : Op → Op) (s : State) : OpsOnly f s (broadcast c f s) := by
  obtain ⟨hrest, hvoices⟩ := broadcast_spec c f s
  refine ⟨hrest, fun v => ⟨(hvoices v).1, fun i => ?_⟩⟩
  rw [(hvoices v).2 i]
  split
  · exact .inl rfl
  · exact .inr rfl

/-- A property of every entry of a bank survives the update of one entry if the new entry has it. -/
theorem forall_updAt {α : Type} {n : Nat} {P : Fin n → α → Prop} {i : Fin n} {f : α → α}
    {v : Vector α n} (hv : ∀ j : Fin n, P j v[j]) (hf : P i (f v[i])) (j : Fin n) :
    P j (updAt i f v)[j] := by
  rw [getElem_updAt]
  split
  · next h => exact h ▸ hf
  · exact hv j

end Sys2Proof.Machine
end

section
/-! PROOF. The invariant of rule R52: after reset, under every command, tick and pop. -/

namespace Sys2Proof.Machine

open Sys2Proof.Config

/-! ### Reset -/

theorem opInv_reset : OpInv fsReset Op.reset := by
  constructor <;> decide

/-- Settles O56: each register by its reset value. -/
theorem legalRangesHoldAtReset : Obligations.LegalRangesHoldAtReset where
  voices v := by
    rw [reset_voices]
    exact ⟨fun _ => rfl, nofun, by decide, fun i => by rw [reset_ops]; exact opInv_reset⟩
  chans c := by rw [reset_chans]; constructor <;> decide
  tpl r := by rw [reset_tpl]; constructor <;> revert r <;> decide
  fs := by decide
  tstep := by decide
  mvol := by decide
  reverb := by decide
  chorus := by decide
  dist := by decide
  lfoRange := chorusLfoOf_within _
  lfoDerived := rfl
  batchRem := Nat.zero_le _
  fifoLength := Nat.zero_le _
  fifoWords := nofun
  sunkWords := nofun

/-! ### Values that registers are set to -/

theorem zero_within_one : Within 0 0 one := by decide

theorem one_within_one : Within one 0 one := by decide

theorem zero_within_etMax : Within 0 0 etMax := by decide

theorem zero_within_turn : Within 0 0 (twoPiQ - 1) := by decide

/-! ### Commands -/

theorem VoiceInv.setOps {fs fs' : Int} {vc vc' : Voice} (h : VoiceInv fs vc)
    (heq : vc' = { vc with ops := vc'.ops }) (hops : ∀ i : Fin 6, OpInv fs' vc'.ops[i]) :
    VoiceInv fs' vc' := by
  rw [heq]
  exact ⟨h.free, h.held, h.vel, hops⟩

theorem State.Inv.opsOnly {f : Op → Op} {s t : State} (hs : s.Inv) (h : OpsOnly f s t)
    (hf : ∀ o, OpInv s.fs o → OpInv s.fs (f o)) : t.Inv := by
  obtain ⟨hrest, hvoices⟩ := h
  have hops : ∀ v : Fin 16, VoiceInv s.fs t.voices[v] := fun v => by
    obtain ⟨hvoice, hop⟩ := hvoices v
    refine (hs.voices v).setOps hvoice fun i => ?_
    rcases hop i with h | h <;> rw [h]
    · exact hf _ ((hs.voices v).ops i)
    · exact (hs.voices v).ops i
  rw [hrest]
  exact { hs with voices := hops }

theorem State.Inv.updChan {s : State} (hs : s.Inv) (c : Fin 8) {f : Channel → Channel}
    (hf : ∀ ch, ChannelInv ch → ChannelInv (f ch)) : (s.updChan c f).Inv :=
  { hs with chans := forall_updAt hs.chans (hf _ (hs.chans c)) }

theorem State.Inv.updTpl {s : State} (hs : s.Inv) (i : Fin 6) {f : TplRow → TplRow}
    (hf : ∀ r, TplInv r → TplInv (f r)) : (s.updTpl i f).Inv :=
  { hs with tpl := forall_updAt hs.tpl (hf _ (hs.tpl i)) }

theorem noteRom_nonneg (n : Fin 128) : 0 ≤ noteRom n := Int.natCast_nonneg _

theorem noteFreq_within {s : State} (hs : s.Inv) (n : Fin 128) (i : Fin 6) :
    Within (noteFreq s n i) 0 qmax :=
  ⟨le_min (mulQ_nonneg (noteRom_nonneg n) (hs.tpl i).ratio.1) (by decide), min_le_right _ _⟩

theorem startOp_inv {s : State} (hs : s.Inv) (n : Fin 128) {vel : Int} (hvel : Within vel 0 one)
    (i : Fin 6) : OpInv s.fs (startOp s n vel i) :=
  { hs.tpl i, hs.chans s.curChan with
    freq := noteFreq_within hs n i
    vel := hvel
    el := zero_within_one
    et := zero_within_etMax
    phase := zero_within_turn
    pincRange := pinc_within (noteFreq_within hs n i) hs.fs
    pincDerived := rfl }

theorem startVoice_inv {s : State} (hs : s.Inv) (n : Fin 128) {vel : Int} (hvel : Within vel 0 one) :
    VoiceInv s.fs (startVoice s n vel) where
  free := nofun
  held _ := by have := n.isLt; simp only [startVoice, Within]; omega
  vel := hvel
  ops i := by rw [startVoice_ops]; exact startOp_inv hs n hvel i

theorem noteOn_inv {s : State} (hs : s.Inv) (n : Fin 128) {vel : Int} (hvel : Within vel 0 one) :
    (noteOn n vel s).Inv := by
  obtain ⟨v, _, h⟩ := noteOn_cases n vel s
  rw [h]
  exact { hs with voices := forall_updAt hs.voices (startVoice_inv hs n hvel) }

/-- A change of the sample rate recomputes every register derived from it (rule R160). -/
theorem setRate_inv {s : State} (hs : s.Inv) {fs : Int} (hfs : Within fs fsMin fsMax) :
    (setRate fs s).Inv :=
  { hs with
    voices := fun v => by
      simp only [setRate, eachVoice_voices, getElem_each]
      refine (hs.voices v).setOps rfl fun i => ?_
      rw [eachOp_ops, getElem_each]
      exact { (hs.voices v).ops i with
        pincRange := pinc_within ((hs.voices v).ops i).freq hfs
        pincDerived := rfl }
    fs := hfs
    tstep := rfl
    lfoRange := chorusLfoOf_within fs
    lfoDerived := rfl }

theorem releaseWhere_inv {s : State} (hs : s.Inv) (p : Voice → Bool) : (releaseWhere p s).Inv :=
  hs.opsOnly (opsOnly_releaseWhere p s) fun _ ho => { ho with et := zero_within_etMax }

/-- Every command keeps the invariant: what it writes is clamped or checked (rules R84, R150). -/
theorem exec_inv (i : Instr) : KeptBy State.Inv (exec i) := by
  intro s t hs h
  cases i with
  | nop => cases h; exact hs
  | noteOn note vel =>
    cases h
    split
    · exact noteOn_inv hs _ (unitArg_within vel)
    · exact hs
  | noteOff note =>
    cases h
    split
    · exact releaseWhere_inv hs _
    · exact hs
  | allNotesOff => cases h; exact releaseWhere_inv hs _
  | setAlgorithm chan index =>
    cases h
    split
    · exact hs.updChan _ fun _ hch => { hch with }
    · exact hs
  | setOpFreq voice op hz =>
    cases h
    exact hs.opsOnly (opsOnly_withOp voice op _ s) fun _ ho =>
      { ho with
        freq := posArg_within hz
        pincRange := pinc_within (posArg_within hz) hs.fs
        pincDerived := rfl }
  | setOpAmp voice op amp =>
    cases h
    exact hs.opsOnly (opsOnly_withOp voice op _ s) fun _ ho => { ho with amp := unitArg_within amp }
  | setOpModidx voice op mi =>
    cases h
    exact hs.opsOnly (opsOnly_withOp voice op _ s) fun _ ho =>
      { ho with modidx := signedArg_within mi }
  | setOpWave voice op wave =>
    cases h
    split
    · exact hs.opsOnly (opsOnly_withOp voice op _ s) fun _ ho => { ho with }
    · exact hs
  | setEnvelope voice op a d su r =>
    cases h
    exact hs.opsOnly (opsOnly_withOp voice op _ s) fun _ ho =>
      { ho with
        atk := timeArg_within a
        dcy := timeArg_within d
        sus := unitArg_within su
        rel := timeArg_within r }
  | setMasterVol vol => cases h; exact { hs with mvol := unitArg_within vol }
  | setSampleRate hz => cases h; exact setRate_inv hs (rateArg_within hz)
  | setPitchBend chan mult =>
    cases h
    split
    · refine State.Inv.opsOnly ?_ (opsOnly_broadcast _ _ _) fun _ ho => { ho with pb := posArg_within mult }
      exact hs.updChan _ fun _ hch => { hch with pb := posArg_within mult }
    · exact hs
  | setModWheel chan value =>
    cases h
    split
    · refine State.Inv.opsOnly ?_ (opsOnly_broadcast _ _ _) fun _ ho => { ho with mw := unitArg_within value }
      exact hs.updChan _ fun _ hch => { hch with mw := unitArg_within value }
    · exact hs
  | setReverb amount => cases h; exact { hs with reverb := unitArg_within amount }
  | setChorus amount => cases h; exact { hs with chorus := unitArg_within amount }
  | setDistortion amount => cases h; exact { hs with dist := unitArg_within amount }
  | setTplOsc op ratio amp mi wave =>
    cases h
    split
    · exact hs.updTpl _ fun _ hr =>
        { hr with
          ratio := posArg_within ratio
          amp := unitArg_within amp
          modidx := signedArg_within mi }
    · exact hs
  | setTplEnv op a d su r =>
    cases h
    split
    · exact hs.updTpl _ fun _ hr =>
        { hr with
          atk := timeArg_within a
          dcy := timeArg_within d
          sus := unitArg_within su
          rel := timeArg_within r }
    · exact hs
  | setCurChan chan =>
    cases h
    split
    · exact { hs with }
    · exact hs
  | start => cases h; exact { hs with }
  | stop => cases h; exact { hs with }
  | clrOverrun => cases h; exact { hs with }

/-! ### Ticks, pops and steps -/

/-- A part `a` of a whole `b`, rounded, is a level if `a` is at most `c` times `b` for a level `c`. -/
theorem rnd_ratio_within {a b c : Int} (ha : 0 ≤ a) (hb : 0 < b) (h : a ≤ c * b) (hc : Within c 0 one) :
    Within (rnd a b) 0 one :=
  ⟨rnd_nonneg ha hb, (rnd_le hb h hc.1).trans hc.2⟩

theorem time_pos {x : Int} (h : Within x envTMin qmax) : 0 < x * 1024 := by
  obtain ⟨hlo, _⟩ := h
  simp only [envTMin] at hlo
  omega

theorem envAttack_inv {fs : Int} {o : Op} (h : OpInv fs o) : OpInv fs (envAttack o) := by
  unfold envAttack
  split
  case isTrue => exact { h with el := one_within_one, et := zero_within_etMax }
  case isFalse hlt =>
    have hrise : o.et * one ≤ one * (o.atk * 1024) := by simp only [one]; omega
    have hlevel := rnd_ratio_within (mul_nonneg h.et.1 (by decide)) (time_pos h.atk) hrise one_within_one
    exact { h with el := hlevel }

theorem envDecay_inv {fs : Int} {o : Op} (h : OpInv fs o) : OpInv fs (envDecay o) := by
  unfold envDecay
  split
  case isTrue => exact { h with el := h.sus }
  case isFalse hlt =>
    obtain ⟨hsus, hsus'⟩ := h.sus
    have hdepth : 0 ≤ one - o.sus := by omega
    have hfall : o.et * (one - o.sus) ≤ (one - o.sus) * (o.dcy * 1024) := by
      rw [mul_comm]
      exact mul_le_mul_of_nonneg_left (by omega) hdepth
    obtain ⟨hlo, hhi⟩ : Within (rnd (o.et * (one - o.sus)) (o.dcy * 1024)) 0 one :=
      rnd_ratio_within (mul_nonneg h.et.1 hdepth) (time_pos h.dcy) hfall ⟨hdepth, by omega⟩
    exact { h with el := ⟨by simp only; omega, by simp only; omega⟩ }

theorem envRelease_inv {fs : Int} {o : Op} (h : OpInv fs o) : OpInv fs (envRelease o) := by
  unfold envRelease
  split
  case isTrue => exact { h with el := zero_within_one }
  case isFalse hlt =>
    have het := h.et.1
    have hfall : o.sus * (o.rel * 1024 - o.et) ≤ o.sus * (o.rel * 1024) :=
      mul_le_mul_of_nonneg_left (by omega) h.sus.1
    have hlevel := rnd_ratio_within (mul_nonneg h.sus.1 (by omega)) (time_pos h.rel) hfall h.sus
    exact { h with el := hlevel }

theorem envStep_inv {fs tstep : Int} {o : Op} (ht : 0 ≤ tstep) (h : OpInv fs o) :
    OpInv fs (envStep tstep o) := by
  have het : Within (min (o.et + tstep) etMax) 0 etMax :=
    ⟨le_min (by have := h.et.1; omega) (by decide), min_le_right _ _⟩
  have hadv : ∀ es, OpInv fs { o with es := es, et := min (o.et + tstep) etMax } :=
    fun _ => { h with et := het }
  unfold envStep
  cases o.es with
  | attack => exact envAttack_inv (hadv _)
  | decay => exact envDecay_inv (hadv _)
  | sustain => exact { hadv .sustain with el := h.sus }
  | release => exact envRelease_inv (hadv _)
  | off => exact { hadv .off with el := zero_within_one }

theorem phaseAdvance_inv {fs : Int} {o : Op} (h : OpInv fs o) : OpInv fs (phaseAdvance o) :=
  { h with phase := emod_within _ (by decide) }

theorem VoiceInv.eachOp {fs : Int} {vc : Voice} {f : Op → Op} (h : VoiceInv fs vc)
    (hf : ∀ o, OpInv fs o → OpInv fs (f o)) : VoiceInv fs (vc.eachOp f) :=
  h.setOps rfl fun i => by rw [eachOp_ops, getElem_each]; exact hf _ (h.ops i)

theorem VoiceInv.release {fs : Int} {vc : Voice} (h : VoiceInv fs vc) : VoiceInv fs (releaseVoice vc) :=
  { h with free := fun _ => rfl, held := nofun }

theorem voiceSample_inv (rom : AlgRom) (p : FxParams) {s : State} {vc : Voice} {fs : Int}
    (ht : 0 ≤ s.tstep) (h : VoiceInv fs vc) : VoiceInv fs (voiceSample rom p s vc).1 := by
  have hstep : VoiceInv fs (vc.eachOp (envStep s.tstep)) := h.eachOp fun _ => envStep_inv ht
  rcases voiceSample_cases rom p s vc with ⟨_, he⟩ | ⟨_, _, he⟩ | ⟨_, _, he⟩ <;> rw [he]
  · exact h
  · exact hstep.release
  · exact hstep.eachOp fun _ => phaseAdvance_inv

/-- A converted sample fits its stream word, so the word carries its value (rules R146, R206). -/
theorem toInt_ofInt_convert_within (x : Int) : Within (BitVec.ofInt 16 (convert x)).toInt outMin outMax := by
  have h : Within (convert x) outMin outMax := clamp_within (by decide)
  simp only [Within, outMin, outMax] at h ⊢
  rwa [BitVec.toInt_ofInt_eq_self (by decide) (by norm_num; omega) (by norm_num; omega)]

theorem State.Inv.tstep_nonneg {s : State} (hs : s.Inv) : 0 ≤ s.tstep := by
  have := (tstepOf_within hs.fs).1
  rw [hs.tstep]; omega

theorem generate_inv (rom : AlgRom) (p : FxParams) {s : State} (hs : s.Inv) {rem : Nat}
    (hrem : rem ≤ batchLen) : (generate rom p rem s).Inv := by
  have hvoices : ∀ v : Fin 16, VoiceInv s.fs (afterFrame rom p s).voices[v] := fun v => by
    rw [afterFrame_voices]
    exact voiceSample_inv rom p hs.tstep_nonneg (hs.voices v)
  obtain ⟨q, o, he, ⟨hlen, _, rfl⟩ | ⟨_, _, rfl⟩⟩ := generate_eq rom p s rem <;> rw [he]
  · exact { hs with
      voices := hvoices
      batchRem := (Nat.sub_le rem 1).trans hrem
      fifoLength := by simpa using hlen
      fifoWords := by
        simp only [List.mem_append, List.mem_cons, List.not_mem_nil, or_false]
        rintro w (hw | rfl | rfl)
        · exact hs.fifoWords w hw
        · exact toInt_ofInt_convert_within _
        · exact toInt_ofInt_convert_within _ }
  · exact { hs with voices := hvoices, batchRem := (Nat.sub_le rem 1).trans hrem }

theorem tickWith_inv (rom : AlgRom) (p : FxParams) {s : State} (hs : s.Inv) : (tickWith rom p s).Inv := by
  rcases tickWith_cases rom p s with ⟨_, _, he⟩ | ⟨_, _, he⟩ | ⟨_, he⟩ <;> rw [he]
  · exact hs
  · exact generate_inv rom p hs le_rfl
  · exact generate_inv rom p hs hs.batchRem

theorem pop_inv {s : State} (hs : s.Inv) : (pop s).Inv := by
  rcases pop_cases s with ⟨_, he⟩ | ⟨w, rest, hfifo, he⟩ <;> rw [he]
  · exact hs
  · have hlen := hs.fifoLength
    have hwords := hs.fifoWords
    rw [hfifo] at hlen hwords
    simp only [List.length_cons] at hlen
    obtain ⟨hhead, hrest⟩ := List.forall_mem_cons.1 hwords
    exact { hs with
      fifoLength := by simp only; omega
      fifoWords := hrest
      sunkWords := List.forall_mem_append.2 ⟨hs.sunkWords, List.forall_mem_singleton.2 hhead⟩ }

/-- Settles O57: the invariant holds after reset, and commands, ticks and pops keep it. -/
theorem everyStepKeepsLegalRanges : Obligations.EveryStepKeepsLegalRanges :=
  forall_configured (Q := KeptBy State.Inv) <|
    keptBy_stepWith legalRangesHoldAtReset (fun _ _ hs => { hs with }) exec_inv
      (fun rom _ => tickWith_inv rom Config.fx) (fun _ => pop_inv)

end Sys2Proof.Machine
end

section
/-! PROOF. Which registers a command may write, field by field (rules R21, R22, R30, R33, R36, R40). -/

namespace Sys2Proof.Machine

open Sys2Proof.Config

/-- An operator under the command `i`: each field is kept unless `i` is one the spec's tables name as its
writer, and by none but `NOTE_ON`, left out here, is `VEL`, `EL` or `PHASE` written (rules R21, R22). -/
structure OpKept (i : Instr) (o o' : Op) : Prop where
  vel : o'.vel = o.vel
  el : o'.el = o.el
  phase : o'.phase = o.phase
  freq : (∀ x y a, i ≠ .setOpFreq x y a) →
    o'.freq = o.freq ∧ ((∀ a, i ≠ .setSampleRate a) → o'.pinc = o.pinc)
  amp : (∀ x y a, i ≠ .setOpAmp x y a) → o'.amp = o.amp
  modidx : (∀ x y a, i ≠ .setOpModidx x y a) → o'.modidx = o.modidx
  wave : (∀ x y a, i ≠ .setOpWave x y a) → o'.wave = o.wave
  env : (∀ x y a b c d, i ≠ .setEnvelope x y a b c d) →
    o'.atk = o.atk ∧ o'.dcy = o.dcy ∧ o'.sus = o.sus ∧ o'.rel = o.rel
  pb : (∀ c a, i ≠ .setPitchBend c a) → o'.pb = o.pb
  mw : (∀ c a, i ≠ .setModWheel c a) → o'.mw = o.mw
  es : (∀ n, i ≠ .noteOff n) → i ≠ .allNotesOff → o'.es = o.es ∧ o'.et = o.et

/-- A template row under the command `i` (rule R36). -/
structure TplKept (i : Instr) (r r' : TplRow) : Prop where
  osc : (∀ o a b c d, i ≠ .setTplOsc o a b c d) →
    r'.ratio = r.ratio ∧ r'.amp = r.amp ∧ r'.modidx = r.modidx ∧ r'.wave = r.wave
  env : (∀ o a b c d, i ≠ .setTplEnv o a b c d) →
    r'.atk = r.atk ∧ r'.dcy = r.dcy ∧ r'.sus = r.sus ∧ r'.rel = r.rel

/-- A channel under the command `i` (rule R33). -/
structure ChannelKept (i : Instr) (ch ch' : Channel) : Prop where
  alg : (∀ x a, i ≠ .setAlgorithm x a) → ch'.alg = ch.alg
  pb : (∀ x a, i ≠ .setPitchBend x a) → ch'.pb = ch.pb
  mw : (∀ x a, i ≠ .setModWheel x a) → ch'.mw = ch.mw

/-- A voice and its operators under the command `i`, which is no `NOTE_ON` (rule R30). -/
structure VoiceKept (i : Instr) (vc vc' : Voice) : Prop where
  active : vc'.active = vc.active
  note : vc'.note = vc.note
  vel : vc'.vel = vc.vel
  chan : vc'.chan = vc.chan
  ops : ∀ o : Fin 6, OpKept i vc.ops[o] vc'.ops[o]

/-- The whole state under the command `i` (rules R21, R22, R30, R33, R36, R40, R47). -/
structure CommandFrame (i : Instr) (s t : State) : Prop where
  fifo : t.fifo = s.fifo
  batchRem : t.batchRem = s.batchRem
  pending : t.pending = s.pending
  delivered : t.delivered = s.delivered
  rate : (∀ a, i ≠ .setSampleRate a) → t.fs = s.fs ∧ t.tstep = s.tstep ∧ t.chorusLfo = s.chorusLfo
  mvol : (∀ a, i ≠ .setMasterVol a) → t.mvol = s.mvol
  reverb : (∀ a, i ≠ .setReverb a) → t.reverb = s.reverb
  chorus : (∀ a, i ≠ .setChorus a) → t.chorus = s.chorus
  dist : (∀ a, i ≠ .setDistortion a) → t.dist = s.dist
  curChan : (∀ c, i ≠ .setCurChan c) → t.curChan = s.curChan
  run : i ≠ .start → i ≠ .stop → t.run = s.run
  overrun : i ≠ .clrOverrun → t.overrun = s.overrun
  tpl : ∀ r : Fin 6, TplKept i s.tpl[r] t.tpl[r]
  chans : ∀ c : Fin 8, ChannelKept i s.chans[c] t.chans[c]
  voices : (∀ n vel, i ≠ .noteOn n vel) → ∀ v : Fin 16, VoiceKept i s.voices[v] t.voices[v]

section
variable (i : Instr)

theorem opKept_refl (o : Op) : OpKept i o o := by constructor <;> simp

theorem tplKept_refl (r : TplRow) : TplKept i r r := by constructor <;> simp

theorem channelKept_refl (ch : Channel) : ChannelKept i ch ch := by constructor <;> simp

theorem voiceKept_refl (vc : Voice) : VoiceKept i vc vc := ⟨rfl, rfl, rfl, rfl, fun _ => opKept_refl i _⟩

theorem commandFrame_refl (s : State) : CommandFrame i s s := by
  constructor <;> simp [tplKept_refl, channelKept_refl, voiceKept_refl]

end

/-- A frame is not broken by a change of operators that keeps what the command must keep of each. -/
theorem CommandFrame.opsOnly {i : Instr} {f : Op → Op} {s t u : State} (hs : CommandFrame i s t)
    (h : OpsOnly f t u) (hvoices : t.voices = s.voices) (hf : ∀ o, OpKept i o (f o)) :
    CommandFrame i s u := by
  obtain ⟨hrest, hops⟩ := h
  rw [hvoices] at hops
  have hkept : ∀ v : Fin 16, VoiceKept i s.voices[v] u.voices[v] := fun v => by
    obtain ⟨hvoice, hop⟩ := hops v
    rw [hvoice]
    refine ⟨rfl, rfl, rfl, rfl, fun o => ?_⟩
    rcases hop o with h | h <;> simp only [h]
    · exact hf _
    · exact opKept_refl i _
  rw [hrest]
  exact { hs with voices := fun _ => hkept }


theorem commandFrame_updChan {i : Instr} {f : Channel → Channel} (s : State) (c : Fin 8)
    (hf : ∀ ch, ChannelKept i ch (f ch)) : CommandFrame i s (s.updChan c f) :=
  { commandFrame_refl i s with chans := forall_updAt (fun _ => channelKept_refl i _) (hf _) }

theorem commandFrame_updTpl {i : Instr} {f : TplRow → TplRow} (s : State) (r : Fin 6)
    (hf : ∀ row, TplKept i row (f row)) : CommandFrame i s (s.updTpl r f) :=
  { commandFrame_refl i s with tpl := forall_updAt (fun _ => tplKept_refl i _) (hf _) }

theorem commandFrame_noteOn (note vel : Arg) (n : Fin 128) (x : Int) (s : State) :
    CommandFrame (.noteOn note vel) s (noteOn n x s) := by
  obtain ⟨v, _, h⟩ := noteOn_cases n x s
  rw [h]
  exact { commandFrame_refl (.noteOn note vel) s with voices := fun hi => absurd rfl (hi note vel) }

theorem commandFrame_setRate (hz : Arg) (fs : Int) (s : State) :
    CommandFrame (.setSampleRate hz) s (setRate fs s) :=
  { commandFrame_refl (.setSampleRate hz) s with
    rate := fun hi => absurd rfl (hi hz)
    voices := fun _ v => by
      simp only [setRate, eachVoice_voices, getElem_each]
      refine ⟨rfl, rfl, rfl, rfl, fun o => ?_⟩
      rw [eachOp_ops, getElem_each]
      exact { opKept_refl (.setSampleRate hz) s.voices[v].ops[o] with
        freq := fun _ => ⟨rfl, fun hi => absurd rfl (hi hz)⟩ } }

theorem commandFrame_withOp {i : Instr} {f : Op → Op} (s : State) (voice : IdxField) (op : OpiField)
    (hf : ∀ o, OpKept i o (f o)) : CommandFrame i s (withOp voice op f s) :=
  (commandFrame_refl i s).opsOnly (opsOnly_withOp voice op f s) rfl hf

/-- Every command keeps what it is not named for: each case states the one field it may write. -/
theorem exec_commandFrame {i : Instr} {s t : State} (h : exec i s = .next t) : CommandFrame i s t := by
  have same := commandFrame_refl i s
  have sameOp := opKept_refl i
  have sameTpl := tplKept_refl i
  have sameChan := channelKept_refl i
  cases i with
  | nop => cases h; exact same
  | noteOn note vel =>
    cases h
    split
    · exact commandFrame_noteOn note vel _ _ s
    · exact same
  | noteOff note =>
    cases h
    split
    · exact same.opsOnly (opsOnly_releaseWhere _ s) rfl fun o =>
        { sameOp o with es := fun hi => absurd rfl (hi note) }
    · exact same
  | allNotesOff =>
    cases h
    exact same.opsOnly (opsOnly_releaseWhere _ s) rfl fun o =>
      { sameOp o with es := fun _ hi => absurd rfl hi }
  | setAlgorithm chan index =>
    cases h
    split
    · exact commandFrame_updChan s _ fun ch =>
        { sameChan ch with alg := fun hi => absurd rfl (hi chan index) }
    · exact same
  | setOpFreq voice op hz =>
    cases h
    exact commandFrame_withOp s voice op fun o =>
      { sameOp o with freq := fun hi => absurd rfl (hi voice op hz) }
  | setOpAmp voice op amp =>
    cases h
    exact commandFrame_withOp s voice op fun o =>
      { sameOp o with amp := fun hi => absurd rfl (hi voice op amp) }
  | setOpModidx voice op mi =>
    cases h
    exact commandFrame_withOp s voice op fun o =>
      { sameOp o with modidx := fun hi => absurd rfl (hi voice op mi) }
  | setOpWave voice op wave =>
    cases h
    split
    · exact commandFrame_withOp s voice op fun o =>
        { sameOp o with wave := fun hi => absurd rfl (hi voice op wave) }
    · exact same
  | setEnvelope voice op a d su r =>
    cases h
    exact commandFrame_withOp s voice op fun o =>
      { sameOp o with env := fun hi => absurd rfl (hi voice op a d su r) }
  | setMasterVol vol => cases h; exact { same with mvol := fun hi => absurd rfl (hi vol) }
  | setSampleRate hz => cases h; exact commandFrame_setRate hz _ s
  | setPitchBend chan mult =>
    cases h
    split
    · refine CommandFrame.opsOnly ?_ (opsOnly_broadcast _ _ _) rfl fun o =>
        { sameOp o with pb := fun hi => absurd rfl (hi chan mult) }
      exact commandFrame_updChan s _ fun ch => { sameChan ch with pb := fun hi => absurd rfl (hi chan mult) }
    · exact same
  | setModWheel chan value =>
    cases h
    split
    · refine CommandFrame.opsOnly ?_ (opsOnly_broadcast _ _ _) rfl fun o =>
        { sameOp o with mw := fun hi => absurd rfl (hi chan value) }
      exact commandFrame_updChan s _ fun ch => { sameChan ch with mw := fun hi => absurd rfl (hi chan value) }
    · exact same
  | setReverb amount => cases h; exact { same with reverb := fun hi => absurd rfl (hi amount) }
  | setChorus amount => cases h; exact { same with chorus := fun hi => absurd rfl (hi amount) }
  | setDistortion amount => cases h; exact { same with dist := fun hi => absurd rfl (hi amount) }
  | setTplOsc op ratio amp mi wave =>
    cases h
    split
    · exact commandFrame_updTpl s _ fun r =>
        { sameTpl r with osc := fun hi => absurd rfl (hi op ratio amp mi wave) }
    · exact same
  | setTplEnv op a d su r =>
    cases h
    split
    · exact commandFrame_updTpl s _ fun row =>
        { sameTpl row with env := fun hi => absurd rfl (hi op a d su r) }
    · exact same
  | setCurChan chan =>
    cases h
    split
    · exact { same with curChan := fun hi => absurd rfl (hi chan) }
    · exact same
  | start => cases h; exact { same with run := fun hi => absurd rfl hi }
  | stop => cases h; exact { same with run := fun _ hi => absurd rfl hi }
  | clrOverrun => cases h; exact { same with overrun := fun hi => absurd rfl hi }

/-- Settles O29: the frame of a command, taken apart. -/
theorem onlyNamedCommandsWriteEachRegister : Obligations.OnlyNamedCommandsWriteEachRegister := by
  intro i s t h
  obtain ⟨fifo, batchRem, pending, delivered, rate, mvol, reverb, chorus, dist, curChan, run, overrun,
    tpl, chans, voices⟩ := exec_commandFrame h
  refine ⟨fifo, batchRem, pending, delivered, rate, mvol, reverb, chorus, dist, curChan, run, overrun,
    fun r => ⟨(tpl r).osc, (tpl r).env⟩,
    fun c => ⟨(chans c).alg, (chans c).pb, (chans c).mw⟩, fun hi v => ?_⟩
  obtain ⟨active, note, vel, chan, ops⟩ := voices hi v
  refine ⟨active, note, vel, chan, fun o => ?_⟩
  obtain ⟨vel, el, phase, freq, amp, modidx, wave, env, pb, mw, es⟩ := ops o
  exact ⟨vel, el, phase, freq, amp, modidx, wave, env, pb, mw, es⟩

theorem noteOn_el_phase (n : Fin 128) (x : Int) (s : State) (v : Fin 16) (o : Fin 6) :
    ((noteOn n x s).voices[v].ops[o].el = s.voices[v].ops[o].el ∧
      (noteOn n x s).voices[v].ops[o].phase = s.voices[v].ops[o].phase) ∨
    ((noteOn n x s).voices[v].ops[o].el = 0 ∧ (noteOn n x s).voices[v].ops[o].phase = 0) := by
  obtain ⟨w, _, h⟩ := noteOn_cases n x s
  rw [h, updVoice_voices, getElem_updAt]
  split
  · rw [startVoice_ops]; exact .inr ⟨rfl, rfl⟩
  · exact .inl ⟨rfl, rfl⟩

/-- Settles O30: the frame of a command that is no `NOTE_ON`, and the voice a `NOTE_ON` starts. -/
theorem commandsNeverSetLevelsOrPhases : Obligations.CommandsNeverSetLevelsOrPhases := by
  intro i s t v o h
  by_cases hi : ∃ n vel, i = .noteOn n vel
  · obtain ⟨note, vel, rfl⟩ := hi
    cases h
    split
    · exact (noteOn_el_phase _ _ s v o).imp_right fun hzero => ⟨⟨note, vel, rfl⟩, hzero⟩
    · exact .inl ⟨rfl, rfl⟩
  · have hkept := ((exec_commandFrame h).voices (fun n vel hn => hi ⟨n, vel, hn⟩) v).ops o
    exact .inl ⟨hkept.el, hkept.phase⟩

end Sys2Proof.Machine
end

section
/-! PROOF. The stream is made of whole frames (rules R47, R63). -/

namespace Sys2Proof.Machine

open Sys2Proof.Config

theorem exec_frameAligned (i : Instr) : KeptBy State.FrameAligned (exec i) := by
  intro s t hs h
  have hframe := exec_commandFrame h
  rw [State.FrameAligned, hframe.fifo, hframe.delivered]
  exact hs

theorem generate_frameAligned (rom : AlgRom) (p : FxParams) (rem : Nat) {s : State} (hs : s.FrameAligned) :
    (generate rom p rem s).FrameAligned := by
  unfold State.FrameAligned at *
  obtain ⟨q, o, he, ⟨_, _, rfl⟩ | ⟨_, _, rfl⟩⟩ := generate_eq rom p s rem <;> rw [he]
  · simp only [List.length_append, List.length_cons, List.length_nil]
    omega
  · exact hs

theorem tickWith_frameAligned (rom : AlgRom) (p : FxParams) {s : State} (hs : s.FrameAligned) :
    (tickWith rom p s).FrameAligned := by
  rcases tickWith_cases rom p s with ⟨_, _, he⟩ | ⟨_, _, he⟩ | ⟨_, he⟩ <;> rw [he]
  · exact hs
  · exact generate_frameAligned rom p _ hs
  · exact generate_frameAligned rom p _ hs

theorem pop_frameAligned {s : State} (hs : s.FrameAligned) : (pop s).FrameAligned := by
  rcases pop_cases s with ⟨_, he⟩ | ⟨w, rest, hfifo, he⟩ <;> rw [he]
  · exact hs
  · simp only [State.FrameAligned, hfifo, List.length_cons, List.length_append, List.length_nil] at *
    omega

/-- Settles O58: commands touch neither list, a frame is pushed whole, and a pop moves one word. -/
theorem everyStepKeepsFrameAlignment : Obligations.EveryStepKeepsFrameAlignment :=
  ⟨rfl, forall_configured (Q := KeptBy State.FrameAligned) <|
    keptBy_stepWith rfl (fun _ _ hs => hs) exec_frameAligned
      (fun rom _ => tickWith_frameAligned rom Config.fx) (fun _ => pop_frameAligned)⟩

end Sys2Proof.Machine
end

section
/-! PROOF. The modulation wheel registers are never heard (rule R24). -/

namespace Sys2Proof.Machine

open Sys2Proof.Config

/-- An operator with its modulation wheel register cleared, as `eraseWheels` leaves it. -/
def Op.noWheel (o : Op) : Op := { o with mw := 0 }

/-- A channel with its modulation wheel register cleared, as `eraseWheels` leaves it. -/
def Channel.noWheel (ch : Channel) : Channel := { ch with mw := 0 }

/-- A voice with the modulation wheel register of every operator cleared, as `eraseWheels` leaves it. -/
def Voice.noWheel (vc : Voice) : Voice := vc.eachOp Op.noWheel

theorem eraseWheels_eq (s : State) : eraseWheels s =
    { s with voices := each Voice.noWheel s.voices, chans := each Channel.noWheel s.chans } := rfl

@[simp] theorem eraseWheels_voices (s : State) (v : Fin 16) :
    (eraseWheels s).voices[v] = s.voices[v].noWheel := getElem_each v _ _

@[simp] theorem eraseWheels_chans (s : State) (c : Fin 8) :
    (eraseWheels s).chans[c] = s.chans[c].noWheel := getElem_each c _ _

@[simp] theorem Op.noWheel_es (o : Op) : o.noWheel.es = o.es := rfl
@[simp] theorem Voice.noWheel_active (vc : Voice) : vc.noWheel.active = vc.active := rfl
@[simp] theorem Voice.noWheel_chan (vc : Voice) : vc.noWheel.chan = vc.chan := rfl
@[simp] theorem eraseWheels_tstep (s : State) : (eraseWheels s).tstep = s.tstep := rfl
@[simp] theorem eraseWheels_run (s : State) : (eraseWheels s).run = s.run := rfl
@[simp] theorem eraseWheels_batchRem (s : State) : (eraseWheels s).batchRem = s.batchRem := rfl
@[simp] theorem eraseWheels_fifo (s : State) : (eraseWheels s).fifo = s.fifo := rfl

/-! ### Banks -/

/-- Replacing one entry commutes with a change of every entry that it commutes with at that entry. -/
theorem updAt_each {α : Type} {n : Nat} {i : Fin n} {f f' g : α → α} {v : Vector α n}
    (h : f' (g v[i]) = g (f v[i])) : updAt i f' (each g v) = each g (updAt i f v) :=
  bank_ext fun j => by
    rw [getElem_updAt, getElem_each, getElem_each, getElem_each, getElem_updAt]
    split
    · exact h
    · rfl

theorem each_each {α : Type} {n : Nat} {f f' g g' : α → α} {v : Vector α n}
    (h : ∀ i : Fin n, f (g v[i]) = g' (f' v[i])) : each f (each g v) = each g' (each f' v) :=
  bank_ext fun i => by simp only [getElem_each]; exact h i

theorem Voice.noWheel_eachOp {f : Op → Op} (hf : ∀ o, f o.noWheel = (f o).noWheel) (vc : Voice) :
    vc.noWheel.eachOp f = (vc.eachOp f).noWheel := by
  simp only [Voice.noWheel, eachOp_eachOp, hf]

/-- Clearing the wheels twice is clearing them once. -/
theorem eraseWheels_eraseWheels (s : State) : eraseWheels (eraseWheels s) = eraseWheels s := by
  have hv : each Voice.noWheel (each Voice.noWheel s.voices) = each Voice.noWheel s.voices :=
    bank_ext fun v => by
      simp only [getElem_each, Voice.noWheel, eachOp_eachOp]
      rfl
  have hc : each Channel.noWheel (each Channel.noWheel s.chans) = each Channel.noWheel s.chans :=
    bank_ext fun c => by simp only [getElem_each]; rfl
  simp only [eraseWheels_eq, hv, hc]

/-! ### Updates that commute with clearing the wheels -/

section
variable (s : State)

theorem eachVoice_eraseWheels {f f' : Voice → Voice} (hf : ∀ vc, f' vc.noWheel = (f vc).noWheel) :
    (eraseWheels s).eachVoice f' = eraseWheels (s.eachVoice f) := by
  simp only [State.eachVoice, eraseWheels_eq, each_each fun v => hf s.voices[v]]

theorem updVoice_eraseWheels (v : Fin 16) {f f' : Voice → Voice}
    (hf : f' s.voices[v].noWheel = (f s.voices[v]).noWheel) :
    (eraseWheels s).updVoice v f' = eraseWheels (s.updVoice v f) := by
  simp only [State.updVoice, eraseWheels_eq, updAt_each hf]

theorem updChan_eraseWheels (c : Fin 8) {f : Channel → Channel} (hf : ∀ ch, f ch.noWheel = (f ch).noWheel) :
    (eraseWheels s).updChan c f = eraseWheels (s.updChan c f) := by
  simp only [State.updChan, eraseWheels_eq, updAt_each (hf _)]

theorem withOp_eraseWheels (voice : IdxField) (op : OpiField) {f : Op → Op}
    (hf : ∀ o, f o.noWheel = (f o).noWheel) :
    withOp voice op f (eraseWheels s) = eraseWheels (withOp voice op f s) := by
  unfold withOp
  split
  · refine updVoice_eraseWheels s _ ?_
    simp only [Voice.noWheel, Voice.eachOp, updAt_each (hf _)]
  · rfl

theorem releaseWhere_eraseWheels {p : Voice → Bool} (hp : ∀ vc, p vc.noWheel = p vc) :
    releaseWhere p (eraseWheels s) = eraseWheels (releaseWhere p s) := by
  refine eachVoice_eraseWheels s fun vc => ?_
  rw [hp, Voice.noWheel_active]
  split
  · exact Voice.noWheel_eachOp (f := fun o => { o with es := .release, et := 0 }) (fun _ => rfl) vc
  · rfl

theorem broadcast_eraseWheels (c : Fin 8) {f : Op → Op} (hf : ∀ o, f o.noWheel = (f o).noWheel) :
    broadcast c f (eraseWheels s) = eraseWheels (broadcast c f s) := by
  refine eachVoice_eraseWheels s fun vc => ?_
  rw [Voice.noWheel_active, Voice.noWheel_chan]
  split
  · exact Voice.noWheel_eachOp hf vc
  · rfl

theorem setRate_eraseWheels (fs : Int) : setRate fs (eraseWheels s) = eraseWheels (setRate fs s) := by
  have hvoices : (eraseWheels s).eachVoice (Voice.eachOp fun o => { o with pinc := pinc o.freq fs }) =
      eraseWheels (s.eachVoice (Voice.eachOp fun o => { o with pinc := pinc o.freq fs })) :=
    eachVoice_eraseWheels s (Voice.noWheel_eachOp fun _ => rfl)
  unfold setRate
  rw [hvoices]
  rfl

theorem findFree_eraseWheels : findFree (eraseWheels s) = findFree s := by
  simp only [findFree, eraseWheels_voices, Voice.noWheel_active]

theorem startOp_eraseWheels (n : Fin 128) (x : Int) (i : Fin 6) :
    startOp (eraseWheels s) n x i = (startOp s n x i).noWheel := by
  unfold startOp
  rw [eraseWheels_chans]
  rfl

theorem startVoice_eraseWheels (n : Fin 128) (x : Int) :
    startVoice (eraseWheels s) n x = (startVoice s n x).noWheel := by
  have hops : (startVoice (eraseWheels s) n x).ops = each Op.noWheel (startVoice s n x).ops :=
    bank_ext fun i => by rw [getElem_each, startVoice_ops, startVoice_ops, startOp_eraseWheels]
  exact congrArg (fun ops => { startVoice s n x with ops := ops }) hops

theorem noteOn_eraseWheels (n : Fin 128) (x : Int) :
    noteOn n x (eraseWheels s) = eraseWheels (noteOn n x s) := by
  unfold noteOn
  rw [findFree_eraseWheels, startVoice_eraseWheels]
  split
  · exact updVoice_eraseWheels s _ rfl
  · rw [updVoice_eraseWheels s 0 (f := releaseVoice) rfl]
    exact updVoice_eraseWheels _ 0 rfl

end

/-- Every command but `SET_MOD_WHEEL` commutes with clearing the wheels. -/
theorem exec_eraseWheels {i : Instr} {s t u : State} (hi : ∀ c a, i ≠ .setModWheel c a)
    (ht : exec i s = .next t) (hu : exec i (eraseWheels s) = .next u) : u = eraseWheels t := by
  cases i with
  | nop => cases ht; cases hu; rfl
  | noteOn note vel =>
    cases ht; cases hu
    split
    · exact noteOn_eraseWheels s _ _
    · rfl
  | noteOff note =>
    cases ht; cases hu
    split
    · exact releaseWhere_eraseWheels s fun _ => rfl
    · rfl
  | allNotesOff => cases ht; cases hu; exact releaseWhere_eraseWheels s fun _ => rfl
  | setAlgorithm chan index =>
    cases ht; cases hu
    split
    · exact updChan_eraseWheels s _ fun _ => rfl
    · rfl
  | setOpFreq voice op hz => cases ht; cases hu; exact withOp_eraseWheels s voice op fun _ => rfl
  | setOpAmp voice op amp => cases ht; cases hu; exact withOp_eraseWheels s voice op fun _ => rfl
  | setOpModidx voice op mi => cases ht; cases hu; exact withOp_eraseWheels s voice op fun _ => rfl
  | setOpWave voice op wave =>
    cases ht; cases hu
    split
    · exact withOp_eraseWheels s voice op fun _ => rfl
    · rfl
  | setEnvelope voice op a d su r => cases ht; cases hu; exact withOp_eraseWheels s voice op fun _ => rfl
  | setMasterVol vol => cases ht; cases hu; rfl
  | setSampleRate hz => cases ht; cases hu; exact setRate_eraseWheels s _
  | setPitchBend chan mult =>
    cases ht; cases hu
    split
    · next c _ =>
      have hchan : (eraseWheels s).updChan c (fun ch => { ch with pb := posArg mult }) =
          eraseWheels (s.updChan c fun ch => { ch with pb := posArg mult }) :=
        updChan_eraseWheels s c fun _ => rfl
      rw [hchan]
      exact broadcast_eraseWheels _ _ fun _ => rfl
    · rfl
  | setModWheel chan value => exact absurd rfl (hi chan value)
  | setReverb amount => cases ht; cases hu; rfl
  | setChorus amount => cases ht; cases hu; rfl
  | setDistortion amount => cases ht; cases hu; rfl
  | setTplOsc op ratio amp mi wave => cases ht; cases hu; split <;> rfl
  | setTplEnv op a d su r => cases ht; cases hu; split <;> rfl
  | setCurChan chan => cases ht; cases hu; split <;> rfl
  | start => cases ht; cases hu; rfl
  | stop => cases ht; cases hu; rfl
  | clrOverrun => cases ht; cases hu; rfl

/-- What `SET_MOD_WHEEL` writes is cleared. -/
theorem setModWheel_eraseWheels {chan : IdxField} {value : Arg} {s t : State}
    (ht : exec (.setModWheel chan value) s = .next t) : eraseWheels t = eraseWheels s := by
  cases ht
  split
  · next c _ =>
    have hv : each Voice.noWheel (broadcast c (fun o => { o with mw := unitArg value }) s).voices =
        each Voice.noWheel s.voices :=
      bank_ext fun v => by
        simp only [getElem_each, broadcast, eachVoice_voices]
        split
        · simp only [Voice.noWheel, eachOp_eachOp]
          rfl
        · rfl
    have hc : each Channel.noWheel (updAt c (fun ch => { ch with mw := unitArg value }) s.chans) =
        each Channel.noWheel s.chans :=
      bank_ext fun c' => by
        rw [getElem_each, getElem_each, getElem_updAt]
        split
        · next h => subst h; rfl
        · rfl
    rw [eraseWheels_eq, eraseWheels_eq]
    exact congrArg₂ (fun vs cs => { s with voices := vs, chans := cs }) hv hc
  · rfl

/-! ### Ticks and pops commute with clearing the wheels -/

theorem envAttack_noWheel (o : Op) : envAttack o.noWheel = (envAttack o).noWheel := by
  unfold envAttack
  rw [apply_ite Op.noWheel]
  rfl

theorem envDecay_noWheel (o : Op) : envDecay o.noWheel = (envDecay o).noWheel := by
  unfold envDecay
  rw [apply_ite Op.noWheel]
  rfl

theorem envRelease_noWheel (o : Op) : envRelease o.noWheel = (envRelease o).noWheel := by
  unfold envRelease
  rw [apply_ite Op.noWheel]
  rfl

theorem envStep_noWheel (tstep : Int) (o : Op) : envStep tstep o.noWheel = (envStep tstep o).noWheel := by
  unfold envStep
  rw [Op.noWheel_es]
  cases o.es with
  | attack => exact envAttack_noWheel { o with es := .attack, et := min (o.et + tstep) etMax }
  | decay => exact envDecay_noWheel { o with es := .decay, et := min (o.et + tstep) etMax }
  | sustain => rfl
  | release => exact envRelease_noWheel { o with es := .release, et := min (o.et + tstep) etMax }
  | off => rfl

theorem allOff_noWheel (vc : Voice) : allOff vc.noWheel = allOff vc := by
  simp only [allOff, Voice.noWheel, eachOp_ops, getElem_each, Op.noWheel_es]

/-- An operator's output does not read the wheel (rules R100, R103). -/
theorem opOut_noWheel (row : AlgRow) (ops : Vector Op 6) (k : Nat) (t : Fin 6) :
    opOut row (each Op.noWheel ops) k t = opOut row ops k t := by
  induction k generalizing t with
  | zero => rfl
  | succ k ih =>
    simp only [opOut, ih, getElem_each]
    rfl

theorem route_noWheel (row : AlgRow) (ops : Vector Op 6) :
    route row (each Op.noWheel ops) = route row ops := by
  simp only [route, opOut_noWheel]

section
variable (rom : AlgRom) (p : FxParams) (s : State)

theorem voiceSample_eraseWheels (vc : Voice) :
    voiceSample rom p (eraseWheels s) vc.noWheel =
      ((voiceSample rom p s vc).1.noWheel, (voiceSample rom p s vc).2) := by
  have hstep : vc.noWheel.eachOp (envStep s.tstep) = (vc.eachOp (envStep s.tstep)).noWheel :=
    Voice.noWheel_eachOp (envStep_noWheel s.tstep) vc
  have hphase : (vc.eachOp (envStep s.tstep)).noWheel.eachOp phaseAdvance =
      ((vc.eachOp (envStep s.tstep)).eachOp phaseAdvance).noWheel :=
    Voice.noWheel_eachOp (f := phaseAdvance) (fun _ => rfl) _
  have halg : (eraseWheels s).chans[vc.noWheel.chan].alg = s.chans[vc.chan].alg := by
    rw [eraseWheels_chans]
    rfl
  have hroute (row : AlgRow) : route row (vc.eachOp (envStep s.tstep)).noWheel.ops =
      route row (vc.eachOp (envStep s.tstep)).ops := route_noWheel row _
  unfold voiceSample voiceStep
  rw [Voice.noWheel_active, eraseWheels_tstep, hstep]
  dsimp only
  rw [allOff_noWheel, hphase, halg, hroute]
  split
  · split <;> rfl
  · rfl

theorem afterFrame_eraseWheels : afterFrame rom p (eraseWheels s) = eraseWheels (afterFrame rom p s) :=
  eachVoice_eraseWheels s fun vc => by rw [voiceSample_eraseWheels]

theorem frame_eraseWheels : frame rom p (eraseWheels s) = frame rom p s := by
  simp only [frame, sideSum, eraseWheels_voices, voiceSample_eraseWheels]

theorem fifoPush_eraseWheels (l r : Int) : fifoPush l r (eraseWheels s) = eraseWheels (fifoPush l r s) := by
  unfold fifoPush
  rw [apply_ite eraseWheels]
  rfl

theorem generate_eraseWheels (rem : Nat) :
    generate rom p rem (eraseWheels s) = eraseWheels (generate rom p rem s) := by
  unfold generate
  rw [frame_eraseWheels, afterFrame_eraseWheels, ← fifoPush_eraseWheels]
  rfl

theorem anyActive_eraseWheels : anyActive (eraseWheels s) = anyActive s := by
  simp only [anyActive, eraseWheels_voices, Voice.noWheel_active]

theorem tickWith_eraseWheels : tickWith rom p (eraseWheels s) = eraseWheels (tickWith rom p s) := by
  unfold tickWith
  rw [anyActive_eraseWheels, generate_eraseWheels, generate_eraseWheels,
    eraseWheels_batchRem, eraseWheels_run]
  split
  · split <;> rfl
  · rfl

theorem pop_eraseWheels : pop (eraseWheels s) = eraseWheels (pop s) := by
  unfold pop
  rw [eraseWheels_fifo]
  split <;> rfl

end

/-! ### Events and steps -/

theorem runWord_eraseWheels {w : CommandWord} {s t u : State} (ht : runWord w s = .next t)
    (hu : runWord w (eraseWheels s) = .next u) : eraseWheels u = eraseWheels t := by
  cases hw : decode w with
  | error e =>
    rw [runWord_error hw] at ht hu
    cases ht; cases hu
    exact eraseWheels_eraseWheels s
  | ok i =>
    rw [runWord_ok hw] at ht hu
    by_cases hi : ∃ c a, i = .setModWheel c a
    · obtain ⟨c, a, rfl⟩ := hi
      rw [setModWheel_eraseWheels ht, setModWheel_eraseWheels hu, eraseWheels_eraseWheels]
    · rw [exec_eraseWheels (fun c a h => hi ⟨c, a, h⟩) ht hu, eraseWheels_eraseWheels]

theorem performWith_eraseWheels {rom : AlgRom} {e : Event} {s t u : State}
    (ht : performWith rom e s = .next t) (hu : performWith rom e (eraseWheels s) = .next u) :
    eraseWheels u = eraseWheels t := by
  cases e with
  | command w => exact runWord_eraseWheels ht hu
  | tick =>
    cases ht; cases hu
    rw [tickWith_eraseWheels, eraseWheels_eraseWheels]
  | pop =>
    cases ht; cases hu
    rw [pop_eraseWheels, eraseWheels_eraseWheels]
  | reset => cases ht; cases hu; rfl

theorem stepWith_eraseWheels (rom : AlgRom) (s t u : State) (ht : stepWith rom s = .next t)
    (hu : stepWith rom (eraseWheels s) = .next u) : eraseWheels u = eraseWheels t := by
  have hnext : nextEvent (eraseWheels s) = nextEvent s := rfl
  cases hn : nextEvent s with
  | none =>
    rw [stepWith_none rom hn] at ht
    rw [stepWith_none rom (hnext.trans hn)] at hu
    cases ht; cases hu
    exact eraseWheels_eraseWheels s
  | some taken =>
    rw [stepWith_some rom hn] at ht
    rw [stepWith_some rom (hnext.trans hn)] at hu
    exact performWith_eraseWheels ht hu

/-- Settles O59: events commute with clearing the wheels, but for `SET_MOD_WHEEL`, whose effect is cleared. -/
theorem modulationWheelIsInaudible : Obligations.ModulationWheelIsInaudible :=
  forall_configured (Q := fun f => ∀ s t u : State, f s = .next t → f (eraseWheels s) = .next u →
    eraseWheels u = eraseWheels t) stepWith_eraseWheels

end Sys2Proof.Machine
end

section
/-! PROOF. A command that fails a check writes nothing (rules R61, R84, R150). -/

namespace Sys2Proof.Machine

/-! ### The checks of a well-formed command are those its operands are read with -/

theorem voiceOk_eq_isSome (idx : IdxField) : voiceOk idx = (voiceIdx idx).isSome := by
  unfold voiceOk voiceIdx
  split <;> simp_all

theorem chanOk_eq_isSome (idx : IdxField) : chanOk idx = (chanIdx idx).isSome := by
  unfold chanOk chanIdx
  split <;> simp_all

theorem opOk_eq_isSome (opi : OpiField) : opOk opi = (opIdx opi).isSome := by
  unfold opOk opIdx
  split <;> simp_all

theorem rangeOk_note_eq_isSome (a : Arg) : rangeOk a 127 = (noteNum a).isSome := by
  unfold rangeOk noteNum
  split <;> simp_all

theorem rangeOk_alg_eq_isSome (a : Arg) : rangeOk a 31 = (algIdx a).isSome := by
  unfold rangeOk algIdx
  split <;> simp_all

/-- A waveform code is in `0..3` exactly when it is one of the four codes (rules R21, R85). -/
theorem rangeOk_wave_eq_isSome (a : Arg) : rangeOk a 3 = (waveArg a).isSome := by
  by_cases h : 0 ≤ a.toInt ∧ a.toInt ≤ 3
  · have hcode : a.toInt = 0 ∨ a.toInt = 1 ∨ a.toInt = 2 ∨ a.toInt = 3 := by omega
    rcases hcode with h | h | h | h <;> simp [rangeOk, waveArg, h]
  · rw [waveArg_eq_none (by omega)]
    exact decide_eq_false h

theorem withOp_of_not_ok {voice : IdxField} {op : OpiField} (h : (voiceOk voice && opOk op) = false)
    (f : Op → Op) (s : State) : withOp voice op f s = s := by
  rcases withOp_cases voice op f s with ⟨v, i, hv, hi, _⟩ | ⟨_, he⟩
  · exact absurd h (by simp [voiceOk_eq_isSome, opOk_eq_isSome, hv, hi])
  · exact he

/-- Settles O10: where every operand can be read the command is well-formed, and where one cannot the state
is left. -/
theorem droppedCommandChangesNothing : Obligations.DroppedCommandChangesNothing := by
  intro i s h
  cases i with
  | noteOn note vel =>
    refine congrArg Host.Outcome.next ?_
    split
    · next hn => exact absurd h (by simp [Instr.wellFormed, rangeOk_note_eq_isSome, hn])
    · rfl
  | noteOff note =>
    refine congrArg Host.Outcome.next ?_
    split
    · next hn => exact absurd h (by simp [Instr.wellFormed, rangeOk_note_eq_isSome, hn])
    · rfl
  | setAlgorithm chan index =>
    refine congrArg Host.Outcome.next ?_
    split
    · next hc ha =>
      exact absurd h (by simp [Instr.wellFormed, chanOk_eq_isSome, rangeOk_alg_eq_isSome, hc, ha])
    · rfl
  | setOpFreq voice op hz => exact congrArg Host.Outcome.next (withOp_of_not_ok h _ s)
  | setOpAmp voice op amp => exact congrArg Host.Outcome.next (withOp_of_not_ok h _ s)
  | setOpModidx voice op mi => exact congrArg Host.Outcome.next (withOp_of_not_ok h _ s)
  | setOpWave voice op wave =>
    refine congrArg Host.Outcome.next ?_
    split
    · next hw =>
      have hop : (voiceOk voice && opOk op) = false := by
        simpa [Instr.wellFormed, rangeOk_wave_eq_isSome, hw] using h
      exact withOp_of_not_ok hop _ s
    · rfl
  | setEnvelope voice op a d su r => exact congrArg Host.Outcome.next (withOp_of_not_ok h _ s)
  | setPitchBend chan mult =>
    refine congrArg Host.Outcome.next ?_
    split
    · next hc => exact absurd h (by simp [Instr.wellFormed, chanOk_eq_isSome, hc])
    · rfl
  | setModWheel chan value =>
    refine congrArg Host.Outcome.next ?_
    split
    · next hc => exact absurd h (by simp [Instr.wellFormed, chanOk_eq_isSome, hc])
    · rfl
  | setTplOsc op ratio amp mi wave =>
    refine congrArg Host.Outcome.next ?_
    split
    · next ho hw =>
      exact absurd h (by simp [Instr.wellFormed, opOk_eq_isSome, rangeOk_wave_eq_isSome, ho, hw])
    · rfl
  | setTplEnv op a d su r =>
    refine congrArg Host.Outcome.next ?_
    split
    · next ho => exact absurd h (by simp [Instr.wellFormed, opOk_eq_isSome, ho])
    · rfl
  | setCurChan chan =>
    refine congrArg Host.Outcome.next ?_
    split
    · next hc => exact absurd h (by simp [Instr.wellFormed, chanOk_eq_isSome, hc])
    · rfl
  | nop | allNotesOff | setMasterVol | setSampleRate | setReverb | setChorus | setDistortion
  | start | stop | clrOverrun => cases h

end Sys2Proof.Machine
end

section
/-! PROOF. Every command but `NOTE_ON` is idempotent (rule R65). -/

namespace Sys2Proof.Machine

/-! ### Updates by an idempotent function are idempotent -/

theorem updAt_idem {α : Type} {n : Nat} {f : α → α} (hf : ∀ a, f (f a) = f a) (i : Fin n)
    (v : Vector α n) : updAt i f (updAt i f v) = updAt i f v := by
  simp only [updAt_updAt, hf]

theorem each_idem {α : Type} {n : Nat} {f : α → α} (hf : ∀ a, f (f a) = f a) (v : Vector α n) :
    each f (each f v) = each f v :=
  bank_ext fun i => by simp only [getElem_each, hf]

theorem eachOp_idem {f : Op → Op} (hf : ∀ o, f (f o) = f o) (vc : Voice) :
    (vc.eachOp f).eachOp f = vc.eachOp f := by
  simp only [eachOp_eachOp, hf]

section
variable (s : State)

theorem eachVoice_idem {f : Voice → Voice} (hf : ∀ vc, f (f vc) = f vc) :
    (s.eachVoice f).eachVoice f = s.eachVoice f := by
  simp only [State.eachVoice, each_idem hf]

theorem updOp_idem {f : Op → Op} (hf : ∀ o, f (f o) = f o) (v : Fin 16) (i : Fin 6) :
    (s.updOp v i f).updOp v i f = s.updOp v i f := by
  simp only [State.updOp, State.updVoice, updAt_updAt, updAt_idem hf]

theorem updChan_idem {f : Channel → Channel} (hf : ∀ ch, f (f ch) = f ch) (c : Fin 8) :
    (s.updChan c f).updChan c f = s.updChan c f := by
  simp only [State.updChan, updAt_idem hf]

theorem updTpl_idem {f : TplRow → TplRow} (hf : ∀ r, f (f r) = f r) (i : Fin 6) :
    (s.updTpl i f).updTpl i f = s.updTpl i f := by
  simp only [State.updTpl, updAt_idem hf]

@[simp] theorem withOp_fs (voice : IdxField) (op : OpiField) (f : Op → Op) :
    (withOp voice op f s).fs = s.fs := by
  rcases withOp_cases voice op f s with ⟨v, i, _, _, he⟩ | ⟨_, he⟩
  · rw [he, updOp_fs]
  · rw [he]

theorem withOp_idem {f : Op → Op} (hf : ∀ o, f (f o) = f o) (voice : IdxField) (op : OpiField) :
    withOp voice op f (withOp voice op f s) = withOp voice op f s := by
  rcases withOp_cases voice op f s with ⟨v, i, hv, hi, _⟩ | ⟨hout, _⟩
  · simp only [withOp, hv, hi]
    exact updOp_idem s hf v i
  · rw [withOp_dropped hout, withOp_dropped hout]

/-- A release of the voices that satisfy `p` is idempotent if `p` does not read what a release writes. -/
theorem releaseWhere_idem {p : Voice → Bool} (hp : ∀ vc, p (releaseOps vc) = p vc) :
    releaseWhere p (releaseWhere p s) = releaseWhere p s := by
  have hops (vc : Voice) : releaseOps (releaseOps vc) = releaseOps vc :=
    eachOp_idem (f := fun o => { o with es := .release, et := 0 }) (fun _ => rfl) vc
  refine eachVoice_idem s fun vc => ?_
  cases hvc : vc.active && p vc with
  | true =>
    have hvc' : ((releaseOps vc).active && p (releaseOps vc)) = true := by rw [hp]; exact hvc
    simp only [if_true, hvc', hops]
  | false => simp [hvc]

theorem broadcast_idem {f : Op → Op} (hf : ∀ o, f (f o) = f o) (c : Fin 8) :
    broadcast c f (broadcast c f s) = broadcast c f s := by
  refine eachVoice_idem s fun vc => ?_
  cases hvc : vc.active && decide (vc.chan = c) with
  | true => simp only [if_true, eachOp_active, eachOp_chan, hvc, eachOp_idem hf]
  | false => simp [hvc]

/-- A setting of a channel sent on to its voices is idempotent: neither half reads what the other writes. -/
theorem broadcast_updChan_idem {f : Op → Op} {g : Channel → Channel} (hf : ∀ o, f (f o) = f o)
    (hg : ∀ ch, g (g ch) = g ch) (c : Fin 8) :
    broadcast c f ((broadcast c f (s.updChan c g)).updChan c g) = broadcast c f (s.updChan c g) :=
  calc broadcast c f ((broadcast c f (s.updChan c g)).updChan c g)
      = broadcast c f (broadcast c f ((s.updChan c g).updChan c g)) := rfl
    _ = broadcast c f (s.updChan c g) := by rw [broadcast_idem _ hf, updChan_idem s hg]

theorem setRate_idem (fs : Int) : setRate fs (setRate fs s) = setRate fs s := by
  have hvoices : each (Voice.eachOp fun o => { o with pinc := pinc o.freq fs })
      (each (Voice.eachOp fun o => { o with pinc := pinc o.freq fs }) s.voices) =
      each (Voice.eachOp fun o => { o with pinc := pinc o.freq fs }) s.voices :=
    each_idem (eachOp_idem fun _ => by rfl) s.voices
  simp only [setRate, State.eachVoice, hvoices]

end

/-- Settles O28: what a command applies to the registers it names is idempotent, and what else it reads
it does not write. -/
theorem commandsButNoteOnAreIdempotent : Obligations.CommandsButNoteOnAreIdempotent := by
  intro i s t hi h
  cases i with
  | noteOn note vel => exact absurd rfl (hi note vel)
  | noteOff note =>
    cases h
    refine congrArg Host.Outcome.next ?_
    cases noteNum note with
    | none => rfl
    | some n => exact releaseWhere_idem s fun _ => rfl
  | allNotesOff => cases h; exact congrArg Host.Outcome.next (releaseWhere_idem s fun _ => rfl)
  | setAlgorithm chan index =>
    cases h
    refine congrArg Host.Outcome.next ?_
    cases chanIdx chan with
    | none => rfl
    | some c =>
      cases algIdx index with
      | none => rfl
      | some n => exact updChan_idem s (fun _ => by rfl) c
  | setOpFreq voice op hz =>
    cases h
    refine congrArg Host.Outcome.next ?_
    rw [withOp_fs]
    exact withOp_idem s (fun _ => by rfl) voice op
  | setOpAmp voice op amp =>
    cases h; exact congrArg Host.Outcome.next (withOp_idem s (fun _ => by rfl) voice op)
  | setOpModidx voice op mi =>
    cases h; exact congrArg Host.Outcome.next (withOp_idem s (fun _ => by rfl) voice op)
  | setOpWave voice op wave =>
    cases h
    refine congrArg Host.Outcome.next ?_
    cases waveArg wave with
    | none => rfl
    | some w => exact withOp_idem s (fun _ => by rfl) voice op
  | setEnvelope voice op a d su r =>
    cases h; exact congrArg Host.Outcome.next (withOp_idem s (fun _ => by rfl) voice op)
  | setSampleRate hz => cases h; exact congrArg Host.Outcome.next (setRate_idem s _)
  | setPitchBend chan mult =>
    cases h
    refine congrArg Host.Outcome.next ?_
    cases chanIdx chan with
    | none => rfl
    | some c => exact broadcast_updChan_idem s (fun _ => by rfl) (fun _ => by rfl) c
  | setModWheel chan value =>
    cases h
    refine congrArg Host.Outcome.next ?_
    cases chanIdx chan with
    | none => rfl
    | some c => exact broadcast_updChan_idem s (fun _ => by rfl) (fun _ => by rfl) c
  | setTplOsc op ratio amp mi wave =>
    cases h
    refine congrArg Host.Outcome.next ?_
    cases opIdx op with
    | none => rfl
    | some i =>
      cases waveArg wave with
      | none => rfl
      | some w => exact updTpl_idem s (fun _ => by rfl) i
  | setTplEnv op a d su r =>
    cases h
    refine congrArg Host.Outcome.next ?_
    cases opIdx op with
    | none => rfl
    | some i => exact updTpl_idem s (fun _ => by rfl) i
  | setCurChan chan =>
    cases h
    refine congrArg Host.Outcome.next ?_
    cases chanIdx chan with
    | none => rfl
    | some c => rfl
  | nop | setMasterVol | setReverb | setChorus | setDistortion | start | stop | clrOverrun => cases h; rfl

end Sys2Proof.Machine
end

section
/-! PROOF. The order of the words in the stream (rules R68, R205). -/

namespace Sys2Proof.Machine

open Sys2Proof.Config

/-- The words pushed since reset in the order the sink has them: those delivered, then those queued. -/
def State.stream (s : State) : List StreamWord := s.delivered ++ s.fifo

theorem exec_stream {i : Instr} {s t : State} (h : exec i s = .next t) : t.stream = s.stream := by
  have hframe := exec_commandFrame h
  rw [State.stream, hframe.fifo, hframe.delivered]
  rfl

theorem pop_stream (s : State) : (pop s).stream = s.stream := by
  rcases pop_cases s with ⟨_, he⟩ | ⟨w, rest, hfifo, he⟩ <;> rw [he]
  simp only [State.stream, hfifo, List.append_assoc, List.singleton_append]

/-- A generated frame is queued behind every other word, or lost (rule R199). -/
theorem generate_stream (rom : AlgRom) (p : FxParams) (rem : Nat) (s : State) :
    ∃ new, (generate rom p rem s).stream = s.stream ++ new ∧ (new = [] ∨ new.length = 2) := by
  obtain ⟨q, o, he, ⟨_, _, hq⟩ | ⟨_, _, hq⟩⟩ := generate_eq rom p s rem
  · refine ⟨[BitVec.ofInt 16 (frame rom p s).1, BitVec.ofInt 16 (frame rom p s).2], ?_, .inr rfl⟩
    rw [he, hq]
    exact (List.append_assoc _ _ _).symm
  · refine ⟨[], ?_, .inl rfl⟩
    rw [he, hq]
    exact (List.append_nil _).symm

theorem tickWith_stream (rom : AlgRom) (p : FxParams) (s : State) :
    ∃ new, (tickWith rom p s).stream = s.stream ++ new ∧ (new = [] ∨ new.length = 2) := by
  rcases tickWith_cases rom p s with ⟨_, _, he⟩ | ⟨_, _, he⟩ | ⟨_, he⟩ <;> rw [he]
  · exact ⟨[], (List.append_nil _).symm, .inl rfl⟩
  · exact generate_stream rom p _ s
  · exact generate_stream rom p _ s

/-- An event that is no `RESET` adds words at the end of the stream only, two of them or none. -/
theorem performWith_stream {rom : AlgRom} {e : Event} {s t : State} (he : e ≠ .reset)
    (h : performWith rom e s = .next t) :
    ∃ new, t.stream = s.stream ++ new ∧ (new = [] ∨ (e = .tick ∧ new.length = 2)) := by
  have same (hst : t.stream = s.stream) :
      ∃ new, t.stream = s.stream ++ new ∧ (new = [] ∨ (e = .tick ∧ new.length = 2)) :=
    ⟨[], hst.trans (List.append_nil _).symm, .inl rfl⟩
  rcases performWith_cases h with ⟨i, hi⟩ | rfl | ⟨rfl, rfl⟩ | ⟨_, rfl⟩ | ⟨hreset, _⟩
  · exact same (exec_stream hi)
  · exact same rfl
  · obtain ⟨new, hst, hnew⟩ := tickWith_stream rom Config.fx s
    exact ⟨new, hst, hnew.imp_right fun hlen => ⟨rfl, hlen⟩⟩
  · exact same (pop_stream s)
  · exact absurd hreset he

/-- Settles O54: this machine's table is one of the tables the events are followed for. -/
theorem streamKeepsPushOrder : Obligations.StreamKeepsPushOrder := by
  intro e s t he h
  rcases h with h | ⟨rom, h⟩
  · exact performWith_stream (rom := algRom) he h
  · exact performWith_stream he h

end Sys2Proof.Machine
end

section
/-! PROOF. The command presented first is the one a step executes (rules R66, R67, R84, R88; log 1). -/

namespace Sys2Proof.Machine

theorem step_of_command {s : State} {w : CommandWord} {rest : List Event}
    (h : s.pending = .command w :: rest) : step s = runWord w { s with pending := rest } := by
  have hnext : nextEvent s = some (.command w, rest) := by
    rw [nextEvent, h]
    exact takeFirst_of_ne_pop (e := .command w) nofun _ rest
  exact step_some hnext

/-- A 208-bit word is presented as it stands. -/
theorem withFetchWord_toNat (s : State) (w : CommandWord) :
    s.withFetchWord 208 w.toNat = presentWord s w := by
  rw [State.withFetchWord, Nat.mod_eq_of_lt w.isLt, BitVec.ofNat_toNat, BitVec.setWidth_eq]

theorem step_presentWord (s : State) (w : CommandWord) : step (presentWord s w) = runWord w s :=
  step_of_command rfl

/-- Settles O5: a step runs the word presented first, and `withFetchWord` presents one. -/
theorem stepExecutesPresentedCommand : Obligations.StepExecutesPresentedCommand := by
  refine ⟨fun s w rest h => ?_, fun s w => ?_⟩
  · rw [step_of_command h]
    exact ⟨fun _ hw => runWord_ok hw _, fun _ hw => runWord_error hw _⟩
  · rw [withFetchWord_toNat, step_presentWord]
    exact ⟨fun _ hw => runWord_ok hw s, fun _ hw => runWord_error hw s⟩

end Sys2Proof.Machine
end

section
/-! PROOF. Encoding and decoding agree; ignored bits and reserved words have no effect (rules R80 to R85, R88,
R94). -/

namespace Sys2Proof.Machine

/-! ### Every word is a command or reserved -/

theorem decode_of_reserved {w : CommandWord} (h : 0x17 ≤ (opcField w).toNat) :
    decode w = .error (.reservedOpcode (opcField w)) := by
  unfold decode
  split
  case h_24 => rfl
  all_goals omega

theorem decode_of_opcode_le {w : CommandWord} (h : (opcField w).toNat ≤ 0x16) :
    ∃ i, decode w = .ok i ∧ opcodeOf i = (opcField w).toNat := by
  unfold decode
  generalize (opcField w).toNat = n at h
  interval_cases n <;> exact ⟨_, rfl, rfl⟩

/-! ### Decoding an encoding, encoding what was decoded -/

/-- Each command is encoded with the opcode of its row, and decoding reads the fields the row uses
(rules R80 to R83). -/
theorem decode_encode (i : Instr) : decode (encode i) = .ok i := by
  cases i <;> simp [encode, decode]

/-- A mask of ones keeps a field. -/
theorem and_eq_self_of_allOnes {k : Nat} {m : BitVec k} (h : m = BitVec.allOnes k) (x : BitVec k) :
    x &&& m = x := by
  rw [h, BitVec.and_allOnes]

/-- In every row, the encoding keeps the fields the command holds and clears the others, as the mask of the
row does (rules R83, R85). -/
theorem encode_of_decode {w : CommandWord} {i : Instr} (h : decode w = .ok i) :
    encode i = w &&& usedBits (opcField w).toNat := by
  unfold decode at h
  split at h
  case h_24 => cases h
  all_goals
    next hn =>
    cases h
    have hopc := congrArg (BitVec.ofNat 8) hn
    rw [BitVec.ofNat_toNat, BitVec.setWidth_eq] at hopc
    simp [encode, usedBits, and_fieldsWord, and_eq_self_of_allOnes, hopc]

/-- Settles O1: the two directions, each row by row of the opcode map. -/
theorem decodeOfEncodeIsIdentity : Obligations.DecodeOfEncodeIsIdentity :=
  ⟨decode_encode, fun _ _ => encode_of_decode⟩

/-! ### What a word's ignored bits and a whole argument do -/

/-- The opcode is used by every command (rule R83). -/
theorem opcField_and_usedBits (w : CommandWord) (n : Nat) : opcField (w &&& usedBits n) = opcField w := by
  unfold usedBits
  split <;> rw [and_fieldsWord, opcField_fieldsWord] <;> exact BitVec.and_allOnes

/-- Settles O2: the masked word of a command is the encoding of that command, and the masked word of a
reserved opcode has the same opcode; a waveform code out of range is no well-formed command. -/
theorem decodeReadsOnlyUsedFields : Obligations.DecodeReadsOnlyUsedFields := by
  refine ⟨fun w => ?_, fun s v o a ha => droppedCommandChangesNothing _ s ?_⟩
  · rcases Nat.lt_or_ge 0x16 (opcField w).toNat with hgt | hle
    · have hopc := opcField_and_usedBits w (opcField w).toNat
      rw [decode_of_reserved hgt, decode_of_reserved (by rw [hopc]; exact hgt), hopc]
    · obtain ⟨i, hi, _⟩ := decode_of_opcode_le hle
      rw [← encode_of_decode hi, decode_encode, hi]
  · simp [Instr.wellFormed, rangeOk_wave_eq_isSome, waveArg_eq_none ha]

/-- Settles O3: a word is run only when it decodes, and it decodes exactly up to the opcode 0x16. -/
theorem reservedOpcodesAreDropped : Obligations.ReservedOpcodesAreDropped := fun _ =>
  ⟨fun h => ⟨decode_of_reserved h, runWord_error (decode_of_reserved h)⟩, decode_of_opcode_le⟩

/-! ### The worked words of rule R94 -/

/-- Bits 207..192 of a word (rule R94). -/
theorem header_toNat (w : CommandWord) : w.toNat / 2 ^ 192 =
    (opcField w).toNat * 2 ^ 8 + (idxField w).toNat * 2 ^ 3 + (opiField w).toNat := by
  have hw := w.isLt
  simp only [opcField, idxField, opiField, BitVec.extractLsb'_toNat, Nat.shiftRight_eq_div_pow]
  omega

/-- Settles O4: the eight words are decoded as they stand, and voice 16 is no voice (rule R61). -/
theorem workedEncodingsDecode : Obligations.WorkedEncodingsDecode := by
  refine ⟨?_, ?_, ?_, ?_, ?_, ?_, ?_, ?_, fun s => ?_, header_toNat⟩
  case refine_9 => exact droppedCommandChangesNothing _ s (by decide)
  all_goals decide

end Sys2Proof.Machine
end

section
/-! PROOF. The waveforms and their range (rule R102). -/

namespace Sys2Proof.Machine

open Sys2Proof.Config

/-- A quotient between two integers is rounded to an integer between them. -/
theorem rnd_within {n d lo hi : Int} (hd : 0 < d) (h : Within n (lo * d) (hi * d)) :
    Within (rnd n d) lo hi := by
  have hlo := rnd_mono hd h.1
  have hhi := rnd_mono hd h.2
  rw [rnd_mul_self _ _ hd] at hlo hhi
  exact ⟨hlo, hhi⟩

/-- The rise of a ramp of slope `ONE` per turn, from turn `lo` to turn `hi` (rule R102). -/
theorem ramp_within {x lo hi : Int} (h : Within x (lo * twoPiQ) (hi * twoPiQ)) :
    Within (rnd (x * one) twoPiQ) (lo * one) (hi * one) :=
  rnd_within (by decide) (by simp only [one, twoPiQ] at *; omega)

/-- A sawtooth rises by two units over one turn (rule R102). -/
theorem sawtooth_within {pe : Int} (h : Within pe 0 (twoPiQ - 1)) :
    Within (waveQ .sawtooth pe) (-one) one := by
  have hrise := ramp_within (x := 2 * pe) (lo := 0) (hi := 2) (by omega)
  simp only [waveQ]
  omega

theorem square_within (pe : Int) : Within (waveQ .square pe) (-one) one := by
  simp only [waveQ]
  split <;> decide

/-- A triangle rises by two units over the first half turn and falls by two over the second (rule R102). -/
theorem triangle_within {pe : Int} (h : Within pe 0 (twoPiQ - 1)) :
    Within (waveQ .triangle pe) (-one) one := by
  simp only [waveQ]
  split
  case isTrue hfirst =>
    have hrise := ramp_within (x := 4 * pe) (lo := 0) (hi := 2) (by omega)
    omega
  case isFalse hsecond =>
    have hfall := ramp_within (x := 4 * pe) (lo := 2) (hi := 4) (by omega)
    omega

theorem waveQ_within (w : Waveform) {pe : Int} (h : Within pe 0 (twoPiQ - 1)) :
    Within (waveQ w pe) (-one) one := by
  cases w with
  | sine => exact sinRom_within _
  | sawtooth => exact sawtooth_within h
  | square => exact square_within pe
  | triangle => exact triangle_within h

/-- Settles O35: the formulas are those of the definition, split at half a turn; the range is that of each
waveform. -/
theorem waveformsStayInUnitRange : Obligations.WaveformsStayInUnitRange := fun _ hpe =>
  ⟨rfl, rfl, fun hfirst => ⟨if_pos hfirst, if_pos hfirst⟩,
    fun hsecond => ⟨if_neg (not_lt.2 hsecond), if_neg (not_lt.2 hsecond)⟩, fun w => waveQ_within w hpe⟩

end Sys2Proof.Machine
end

section
/-! PROOF. The range of an operator's output and of a routed voice (rules R100, R101, R103, R126). -/

namespace Sys2Proof.Machine

open Sys2Proof.Config

theorem effPhase_within (o : Op) (modin : Int) : Within (effPhase o modin) 0 (twoPiQ - 1) :=
  emod_within _ (by decide)

/-- A factor in `[0, ONE]` scales a magnitude bound by `ONE`. -/
theorem abs_mul_level_le {x b level : Int} (hx : |x| ≤ b) (hlevel : Within level 0 one) :
    |x * level| ≤ b * one := by
  rw [abs_mul, abs_of_nonneg hlevel.1]
  exact mul_le_mul hx hlevel.2 hlevel.1 ((abs_nonneg x).trans hx)

/-- Three factors in `[0, ONE]` do not raise a waveform value above `ONE` (rule R103). -/
theorem scale_within {fs : Int} {o : Op} (ho : OpInv fs o) {w : Int} (hw : Within w (-one) one) :
    Within (scale o w) (-one) one := by
  have hprod := abs_mul_level_le (abs_mul_level_le (abs_mul_level_le (abs_le.2 hw) ho.amp) ho.el) ho.vel
  obtain ⟨hlo, hhi⟩ := abs_le.1 hprod
  exact rnd_within (by decide) ⟨by linarith, by linarith⟩

theorem gen_within {fs : Int} {o : Op} (ho : OpInv fs o) (modin : Int) : Within (gen o modin) (-one) one :=
  scale_within ho (waveQ_within o.wave (effPhase_within o modin))

theorem gen_of_silent {o : Op} (h : o.amp = 0 ∨ o.el = 0 ∨ o.vel = 0) (modin : Int) : gen o modin = 0 := by
  have hprod : ∀ w : Int, w * o.amp * o.el * o.vel = 0 := fun w => by
    rcases h with h | h | h <;> simp [h]
  rw [gen, scale, hprod]
  exact rnd_zero _ (by decide)

/-- At every depth an output is 0 or a `GEN`, so its range does not depend on the modulation (rule R103). -/
theorem opOut_within {fs : Int} (row : AlgRow) {ops : Vector Op 6} (hops : ∀ i : Fin 6, OpInv fs ops[i])
    (k : Nat) (t : Fin 6) : Within (opOut row ops k t) (-one) one := by
  cases k with
  | zero => exact (by decide : Within 0 (-one) one)
  | succ k => exact gen_within (hops t) _

/-- A sum of `n` values lies between `n` times their bounds. -/
theorem sumOver_within {n : Nat} {f : Fin n → Int} {lo hi : Int} (h : ∀ i, Within (f i) lo hi) :
    Within (sumOver n f) (n * lo) (n * hi) := by
  rw [sumOver_eq_sum]
  constructor
  · simpa using Finset.card_nsmul_le_sum Finset.univ f lo fun i _ => (h i).1
  · simpa using Finset.sum_le_card_nsmul Finset.univ f hi fun i _ => (h i).2

/-- Each of the six operators adds 0 or its output (rule R126). -/
theorem route_within {fs : Int} (row : AlgRow) {ops : Vector Op 6} (hops : ∀ i : Fin 6, OpInv fs ops[i]) :
    Within (route row ops) (-(6 * one)) (6 * one) := by
  refine sumOver_within (n := 6) (lo := -one) (hi := one) fun i => ?_
  split
  · exact opOut_within row hops 6 i
  · decide

/-- Settles O36: the value is the definition, and the ranges are those of `GEN` and of a sum of six. -/
theorem outputsStayInRange : Obligations.OutputsStayInRange := by
  refine ⟨fun o modin pm pe hpm hpe => ?_, fun _ _ modin ho => gen_within ho modin,
    fun _ modin h => gen_of_silent h modin, fun _ row _ hops => route_within row hops⟩
  subst hpm hpe
  rfl

end Sys2Proof.Machine
end

section
/-! PROOF. One envelope step, state by state (rules R111 to R116), and the order of the levels within a state
(rule R118). -/

namespace Sys2Proof.Machine

open Sys2Proof.Config

/-- The time an envelope step reads: advanced by `TSTEP` and saturated (rule R111). -/
def envTime (ts : Int) (o : Op) : Int := min (o.et + ts) etMax

section equations
variable {ts : Int} {o : Op}

theorem envStep_of_attack (hes : o.es = .attack) :
    envStep ts o = if o.atk * 1024 ≤ envTime ts o then { o with el := one, es := .decay, et := 0 }
      else { o with et := envTime ts o, el := rnd (envTime ts o * one) (o.atk * 1024) } := by
  unfold envStep
  rw [hes]
  rfl

theorem envStep_of_decay (hes : o.es = .decay) :
    envStep ts o = if o.sus = one ∨ o.dcy * 1024 ≤ envTime ts o
      then { o with et := envTime ts o, el := o.sus, es := .sustain }
      else { o with
        et := envTime ts o, el := one - rnd (envTime ts o * (one - o.sus)) (o.dcy * 1024) } := by
  unfold envStep
  rw [hes]
  rfl

theorem envStep_of_sustain (hes : o.es = .sustain) :
    envStep ts o = { o with et := envTime ts o, el := o.sus } := by
  unfold envStep
  rw [hes]
  rfl

theorem envStep_of_release (hes : o.es = .release) :
    envStep ts o = if o.sus = 0 ∨ o.rel * 1024 ≤ envTime ts o
      then { o with et := envTime ts o, el := 0, es := .off }
      else { o with
        et := envTime ts o, el := rnd (o.sus * (o.rel * 1024 - envTime ts o)) (o.rel * 1024) } := by
  unfold envStep
  rw [hes]
  rfl

theorem envStep_of_off (hes : o.es = .off) : envStep ts o = { o with et := envTime ts o, el := 0 } := by
  unfold envStep
  rw [hes]
  rfl

end equations

/-- Settles O37: each clause is one branch of the equation of its state. -/
theorem envelopeStepFollowsItsState : Obligations.EnvelopeStepFollowsItsState := by
  intro ts o et het
  obtain rfl : et = envTime ts o := het
  exact ⟨fun hes h => (envStep_of_attack hes).trans (if_pos h),
    fun hes h => (envStep_of_attack hes).trans (if_neg (not_le.2 h)),
    fun hes h => (envStep_of_decay hes).trans (if_pos h),
    fun hes hsus h => (envStep_of_decay hes).trans (if_neg (not_or.2 ⟨hsus, not_le.2 h⟩)),
    envStep_of_sustain,
    fun hes h => (envStep_of_release hes).trans (if_pos h),
    fun hes hsus h => (envStep_of_release hes).trans (if_neg (not_or.2 ⟨hsus, not_le.2 h⟩)),
    envStep_of_off⟩

/-! ### Staying in a state -/

section staying
variable {fs ts : Int} {o : Op}

theorem et_le_envTime (ho : OpInv fs o) (hts : 0 ≤ ts) : o.et ≤ envTime ts o :=
  le_min (by omega) ho.et.2

theorem envStep_of_stays_attack (hes : o.es = .attack) (hstay : (envStep ts o).es = .attack) :
    envStep ts o = { o with et := envTime ts o, el := rnd (envTime ts o * one) (o.atk * 1024) } := by
  rw [envStep_of_attack hes] at hstay ⊢
  split at hstay
  case isTrue => cases hstay
  case isFalse h => exact if_neg h

theorem envStep_of_stays_decay (hes : o.es = .decay) (hstay : (envStep ts o).es = .decay) :
    envTime ts o < o.dcy * 1024 ∧ envStep ts o = { o with
      et := envTime ts o, el := one - rnd (envTime ts o * (one - o.sus)) (o.dcy * 1024) } := by
  rw [envStep_of_decay hes] at hstay ⊢
  split at hstay
  case isTrue => cases hstay
  case isFalse h => exact ⟨not_le.1 fun hlim => h (.inr hlim), if_neg h⟩

theorem envStep_of_stays_release (hes : o.es = .release) (hstay : (envStep ts o).es = .release) :
    envStep ts o = { o with
      et := envTime ts o, el := rnd (o.sus * (o.rel * 1024 - envTime ts o)) (o.rel * 1024) } := by
  rw [envStep_of_release hes] at hstay ⊢
  split at hstay
  case isTrue => cases hstay
  case isFalse h => exact if_neg h

end staying

/-! ### Levels within a state -/

section levels
variable {fs ts : Int} {o : Op}

/-- Over two steps in ATTACK the level grows with time; leaving ATTACK it becomes `ONE`, the largest level. -/
theorem attack_el_mono (ho : OpInv fs o) (hts : 0 ≤ ts) (hes : o.es = .attack)
    (hstay : (envStep ts o).es = .attack) : (envStep ts o).el ≤ (envStep ts (envStep ts o)).el := by
  have ho' : OpInv fs (envStep ts o) := envStep_inv hts ho
  have htime := et_le_envTime ho' hts
  rw [envStep_of_attack hstay]
  split
  case isTrue => exact ho'.el.2
  case isFalse =>
    rw [envStep_of_stays_attack hes hstay] at htime ⊢
    exact rnd_mono (time_pos ho.atk) (mul_le_mul_of_nonneg_right htime (by decide))

/-- Before its limit DECAY has not fallen below the sustain level. -/
theorem sus_le_decay_level (ho : OpInv fs o) {t : Int} (ht : t ≤ o.dcy * 1024) :
    o.sus ≤ one - rnd (t * (one - o.sus)) (o.dcy * 1024) := by
  have hdepth : 0 ≤ one - o.sus := sub_nonneg.2 ho.sus.2
  have hfall : t * (one - o.sus) ≤ (one - o.sus) * (o.dcy * 1024) := by
    rw [mul_comm]
    exact mul_le_mul_of_nonneg_left ht hdepth
  have := rnd_le (time_pos ho.dcy) hfall hdepth
  omega

/-- Over two steps in DECAY the level falls with time; leaving DECAY it becomes the sustain level. -/
theorem decay_el_anti (ho : OpInv fs o) (hts : 0 ≤ ts) (hes : o.es = .decay)
    (hstay : (envStep ts o).es = .decay) : (envStep ts (envStep ts o)).el ≤ (envStep ts o).el := by
  have htime := et_le_envTime (envStep_inv hts ho) hts
  obtain ⟨hlim, heq⟩ := envStep_of_stays_decay hes hstay
  rw [envStep_of_decay hstay]
  split
  case isTrue =>
    rw [heq]
    exact sus_le_decay_level ho hlim.le
  case isFalse =>
    rw [heq] at htime ⊢
    have hdepth : 0 ≤ one - o.sus := sub_nonneg.2 ho.sus.2
    exact sub_le_sub_left (rnd_mono (time_pos ho.dcy) (mul_le_mul_of_nonneg_right htime hdepth)) one

/-- Over two steps in RELEASE the level falls with time; leaving RELEASE it becomes 0, the least level. -/
theorem release_el_anti (ho : OpInv fs o) (hts : 0 ≤ ts) (hes : o.es = .release)
    (hstay : (envStep ts o).es = .release) : (envStep ts (envStep ts o)).el ≤ (envStep ts o).el := by
  have ho' : OpInv fs (envStep ts o) := envStep_inv hts ho
  have htime := et_le_envTime ho' hts
  rw [envStep_of_release hstay]
  split
  case isTrue => exact ho'.el.1
  case isFalse =>
    rw [envStep_of_stays_release hes hstay] at htime ⊢
    exact rnd_mono (time_pos ho.rel) (mul_le_mul_of_nonneg_left (sub_le_sub_left htime _) ho.sus.1)

end levels

/-- Settles O38: within a state the level follows time, and the level on leaving it bounds those before. -/
theorem envelopeLevelIsMonotone : Obligations.EnvelopeLevelIsMonotone := fun _ _ _ ho hts =>
  ⟨attack_el_mono ho hts.le, decay_el_anti ho hts.le, release_el_anti ho hts.le⟩

end Sys2Proof.Machine
end

section
/-! PROOF. How many ticks ATTACK and RELEASE last (rules R112, R115, R116). -/

namespace Sys2Proof.Machine

open Sys2Proof.Config

/-- `ceil(a / b)` is the least number of steps of size `b` that reach `a` (rule R11). -/
theorem ceilDiv_le_iff {a b n : Int} (hb : 0 < b) : ceilDiv a b ≤ n ↔ a ≤ n * b := by
  obtain ⟨hreach, hleast⟩ := ceilDiv_spec (a := a) hb
  constructor
  · intro h
    exact hreach.trans (mul_le_mul_of_nonneg_right h hb.le)
  · intro h
    have : ceilDiv a b * b < (n + 1) * b := by linarith
    exact Int.lt_add_one_iff.1 (lt_of_mul_lt_mul_right this hb.le)

theorem time_le_etMax {x : Int} (h : Within x envTMin qmax) : x * 1024 ≤ etMax := by
  obtain ⟨_, hhi⟩ := h
  simp only [qmax, etMax] at *
  omega

/-- A stage of the envelope that a time limit ends: `Run` holds and time goes on while the advanced time is
below the limit; the step that reaches it leads to `Done`, which then stays. -/
structure TimedStage (ts lim : Int) (Run Done : Op → Prop) : Prop where
  stays : ∀ o, Run o → envTime ts o < lim → Run (envStep ts o) ∧ (envStep ts o).et = envTime ts o
  leaves : ∀ o, Run o → lim ≤ envTime ts o → Done (envStep ts o)
  lasts : ∀ o, Done o → Done (envStep ts o)

/-- A stage entered at time 0 runs, at time `n * TSTEP`, while that is below the limit, and is over from then
on; saturation of the time is never met. -/
theorem TimedStage.iterate {ts lim : Int} {Run Done : Op → Prop} (h : TimedStage ts lim Run Done)
    (hts : 0 < ts) (hpos : 0 < lim) (hmax : lim ≤ etMax) {o : Op} (hrun : Run o) (het : o.et = 0) (n : Nat) :
    (n * ts < lim ∧ Run ((envStep ts)^[n] o) ∧ ((envStep ts)^[n] o).et = n * ts) ∨
    (lim ≤ n * ts ∧ Done ((envStep ts)^[n] o)) := by
  induction n with
  | zero => exact .inl ⟨by simpa using hpos, hrun, by simpa using het⟩
  | succ n ih =>
    have hnext : ((n + 1 : Nat) : Int) * ts = n * ts + ts := by push_cast; ring
    rw [Function.iterate_succ_apply', hnext]
    rcases ih with ⟨_, hr, ht⟩ | ⟨hge, hd⟩
    · have htime : envTime ts ((envStep ts)^[n] o) = min (n * ts + ts) etMax := by rw [envTime, ht]
      rcases lt_or_ge (n * ts + ts) lim with hlt | hge
      · obtain ⟨hr', ht'⟩ := h.stays _ hr (by omega)
        exact .inl ⟨hlt, hr', by omega⟩
      · exact .inr ⟨hge, h.leaves _ hr (by omega)⟩
    · exact .inr ⟨by omega, h.lasts _ hd⟩

/-- So the stage runs or is over according to the number of steps against `ceil(lim / TSTEP)`. -/
theorem TimedStage.iterate_ceilDiv {ts lim : Int} {Run Done : Op → Prop} (h : TimedStage ts lim Run Done)
    (hts : 0 < ts) (hpos : 0 < lim) (hmax : lim ≤ etMax) {o : Op} (hrun : Run o) (het : o.et = 0) (n : Nat) :
    (n < ceilDiv lim ts ∧ Run ((envStep ts)^[n] o)) ∨ (ceilDiv lim ts ≤ n ∧ Done ((envStep ts)^[n] o)) := by
  rcases h.iterate hts hpos hmax hrun het n with ⟨hlt, hr, _⟩ | ⟨hge, hd⟩
  · exact .inl ⟨not_le.1 fun hle => absurd ((ceilDiv_le_iff hts).1 hle) (not_le.2 hlt), hr⟩
  · exact .inr ⟨(ceilDiv_le_iff hts).2 hge, hd⟩

/-- No envelope step enters ATTACK (rules R113 to R116). -/
theorem envStep_es_ne_attack (ts : Int) {o : Op} (h : o.es ≠ .attack) : (envStep ts o).es ≠ .attack := by
  cases hes : o.es with
  | attack => exact absurd hes h
  | decay =>
    rw [envStep_of_decay hes]
    split
    · exact nofun
    · exact h
  | sustain => rw [envStep_of_sustain hes]; exact h
  | release =>
    rw [envStep_of_release hes]
    split
    · exact nofun
    · exact h
  | off => rw [envStep_of_off hes]; exact h

theorem attack_timedStage (ts atk : Int) :
    TimedStage ts (atk * 1024) (fun o => o.es = .attack ∧ o.atk = atk) (fun o => o.es ≠ .attack) where
  stays := by
    rintro o ⟨hes, rfl⟩ hlt
    rw [envStep_of_attack hes, if_neg (not_le.2 hlt)]
    exact ⟨⟨hes, rfl⟩, rfl⟩
  leaves := by
    rintro o ⟨hes, rfl⟩ hge
    rw [envStep_of_attack hes, if_pos hge]
    exact nofun
  lasts _ := envStep_es_ne_attack ts

theorem release_timedStage (ts rel : Int) :
    TimedStage ts (rel * 1024) (fun o => o.es = .release ∧ o.sus ≠ 0 ∧ o.rel = rel) (fun o => o.es = .off) where
  stays := by
    rintro o ⟨hes, hsus, rfl⟩ hlt
    rw [envStep_of_release hes, if_neg (not_or.2 ⟨hsus, not_le.2 hlt⟩)]
    exact ⟨⟨hes, hsus, rfl⟩, rfl⟩
  leaves := by
    rintro o ⟨hes, _, rfl⟩ hge
    rw [envStep_of_release hes, if_pos (.inr hge)]
  lasts o hes := by rw [envStep_of_off hes]; exact hes

/-- Settles O39: both states are timed stages, left for good at their limits. -/
theorem attackAndReleaseLastTheirTimes : Obligations.AttackAndReleaseLastTheirTimes := by
  intro fs ts o n ho hts het
  constructor
  · intro hes
    rcases (attack_timedStage ts o.atk).iterate_ceilDiv hts (time_pos ho.atk) (time_le_etMax ho.atk)
      ⟨hes, rfl⟩ het n with ⟨hlt, hrun, _⟩ | ⟨hge, hdone⟩
    · exact iff_of_false (not_not.2 hrun) (not_le.2 hlt)
    · exact iff_of_true hdone hge
  · intro hes hsus
    rcases (release_timedStage ts o.rel).iterate_ceilDiv hts (time_pos ho.rel) (time_le_etMax ho.rel)
      ⟨hes, hsus, rfl⟩ het n with ⟨hlt, hrun, _⟩ | ⟨hge, hdone⟩
    · exact ⟨iff_of_false (by rw [hrun]; exact nofun) (not_le.2 hlt), iff_of_true hrun hlt⟩
    · exact ⟨iff_of_true hdone hge, iff_of_false (by rw [hdone]; exact nofun) (not_lt.2 hge)⟩

end Sys2Proof.Machine
end

section
/-! PROOF. What a generated sample does with each voice (rules R119, R135, R140, R141, R143). -/

namespace Sys2Proof.Machine

open Sys2Proof.Config

theorem each_eq_ofFn {α : Type} {n : Nat} (f : α → α) (v : Vector α n) :
    each f v = Vector.ofFn fun i : Fin n => f v[i] := by
  rw [each]

theorem allOff_eachOp_iff (f : Op → Op) (vc : Voice) :
    allOff (vc.eachOp f) = true ↔ ∀ i : Fin 6, (f vc.ops[i]).es = .off := by
  simp only [allOff_iff, eachOp_ops, getElem_each]

section
variable (rom : AlgRom) (p : FxParams) (s : State) {vc : Voice}

/-- A free voice is left alone and gives no sample (rule R140). -/
theorem voiceSample_of_inactive (ha : vc.active = false) : voiceSample rom p s vc = (vc, none) := by
  rcases voiceSample_cases rom p s vc with ⟨_, he⟩ | ⟨ha', _⟩ | ⟨ha', _⟩
  · exact he
  all_goals cases ha.symm.trans ha'

/-- A voice whose operators all end is freed, its phases as they were (rules R119, R135, R141). -/
theorem voiceSample_of_ended (ha : vc.active = true)
    (hoff : ∀ i : Fin 6, (envStep s.tstep vc.ops[i]).es = .off) :
    voiceSample rom p s vc = ({ vc with
      active := false, note := -1, ops := Vector.ofFn fun i : Fin 6 => envStep s.tstep vc.ops[i] }, none) := by
  rw [← allOff_eachOp_iff] at hoff
  rcases voiceSample_cases rom p s vc with ⟨ha', _⟩ | ⟨_, _, he⟩ | ⟨_, hon, _⟩
  · cases ha.symm.trans ha'
  · rw [he, Voice.eachOp, each_eq_ofFn]; rfl
  · cases hoff.symm.trans hon

/-- A sounding voice gives a sample of its stepped envelopes and old phases, and its phases advance
(rules R141, R143). -/
theorem voiceSample_of_sounding (ha : vc.active = true)
    (hon : ¬ ∀ i : Fin 6, (envStep s.tstep vc.ops[i]).es = .off) :
    voiceSample rom p s vc =
      ({ vc with ops := Vector.ofFn fun i : Fin 6 => phaseAdvance (envStep s.tstep vc.ops[i]) },
        some (rnd (fxWith p s (route (rom s.chans[vc.chan].alg)
          (Vector.ofFn fun i : Fin 6 => envStep s.tstep vc.ops[i])) * s.mvol) one)) := by
  rw [← allOff_eachOp_iff] at hon
  rcases voiceSample_cases rom p s vc with ⟨ha', _⟩ | ⟨_, hoff, _⟩ | ⟨_, _, he⟩
  · cases ha.symm.trans ha'
  · exact absurd hoff hon
  · rw [he, eachOp_eachOp, Voice.eachOp, each_eq_ofFn, each_eq_ofFn]; rfl

end

/-- Settles O43: the three cases of a voice. -/
theorem everyVoiceRunsThePipeline : Obligations.EveryVoiceRunsThePipeline := by
  intro rom p s v
  rw [afterFrame_voices]
  refine ⟨fun ha => ?_, fun ha hoff => ?_, fun ha hon => ?_⟩
  · rw [voiceSample_of_inactive rom p s ha]
    exact ⟨rfl, rfl⟩
  · rw [voiceSample_of_ended rom p s ha hoff]
    exact ⟨rfl, rfl⟩
  · rw [voiceSample_of_sounding rom p s ha hon]
    exact ⟨rfl, rfl⟩

end Sys2Proof.Machine
end

section
/-! PROOF. The acyclicity check is exact, and which tables configure the hardware (rules R121, R123 to R125). -/

namespace Sys2Proof.Machine

open Sys2Proof.Config

section
variable {row : AlgRow}

/-- Operator `t` is reached from operator `m` along one or more edges of the row. -/
def Reaches (row : AlgRow) : Fin 6 → Fin 6 → Prop :=
  Relation.TransGen fun m t => modulates row m t = true

theorem hasChain_succ_iff {k : Nat} {t : Fin 6} :
    hasChain row (k + 1) t = true ↔ ∃ m, modulates row m t = true ∧ hasChain row k m = true := by
  simp [hasChain]

theorem acyclic_iff : acyclic row = true ↔ ∀ t, hasChain row 6 t = false := by
  simp [acyclic]

/-- An operator on a cycle feeds chains of every length, and so does every operator it reaches. -/
theorem hasChain_of_reaches_of_cycle {t : Fin 6} (hcycle : Reaches row t t) (k : Nat) {u : Fin 6}
    (hu : Reaches row t u) : hasChain row k u = true := by
  induction k generalizing u with
  | zero => rfl
  | succ k ih =>
    obtain ⟨m, hm, hedge⟩ := Relation.TransGen.tail'_iff.1 hu
    refine hasChain_succ_iff.2 ⟨m, hedge, ih ?_⟩
    rcases Relation.reflTransGen_iff_eq_or_transGen.1 hm with rfl | hm
    · exact hcycle
    · exact hm

/-- Without a cycle each edge of a chain adds an operator to those that reach its end. -/
theorem le_ncard_of_hasChain (hacyclic : ∀ t, ¬ Reaches row t t) {k : Nat} {t : Fin 6}
    (h : hasChain row k t = true) : k ≤ {a | Reaches row a t}.ncard := by
  induction k generalizing t with
  | zero => exact Nat.zero_le _
  | succ k ih =>
    obtain ⟨m, hedge, hchain⟩ := hasChain_succ_iff.1 h
    have hsub : {a | Reaches row a m} ⊆ {a | Reaches row a t} := fun _ ha => ha.tail hedge
    have hlt := Set.ncard_lt_ncard ((Set.ssubset_iff_of_subset hsub).2 ⟨m, .single hedge, hacyclic m⟩)
    exact (ih hchain).trans_lt hlt

/-- A chain of six edges needs a cycle: without one at most the five other operators reach its end. -/
theorem acyclic_iff_not_reaches : acyclic row = true ↔ ∀ t, ¬ Reaches row t t := by
  rw [acyclic_iff]
  constructor
  · intro h t hcycle
    exact Bool.false_ne_true ((h t).symm.trans (hasChain_of_reaches_of_cycle hcycle 6 hcycle))
  · intro h t
    have hne : {a | Reaches row a t} ≠ Set.univ := fun huniv => h t (huniv.ge (Set.mem_univ t))
    have hlt := Set.ncard_lt_card hne
    rw [Nat.card_fin] at hlt
    exact Bool.eq_false_iff.2 fun hchain => hlt.not_ge (le_ncard_of_hasChain h hchain)

end

theorem legalAlgRom_iff {rom : AlgRom} : legalAlgRom rom = true ↔
    (∀ a, acyclic (rom a) = true ∧ (rom a).car ≠ 0) ∧ rom 22 = allIntoOneRow ∧ rom 23 = allIntoOneRow ∧
      rom 29 = allIntoOneRow ∧ rom 30 = allIntoOneRow ∧ rom 31 = allCarriersRow := by
  simp [legalAlgRom]

theorem configure_isSome_iff {rom : AlgRom} : (configure rom).isSome = true ↔ legalAlgRom rom = true := by
  simp [configure]

/-- Settles O40: a chain of six edges is there exactly when an operator reaches itself, and the checks on a
table are the clauses of its legality. -/
theorem acyclicityCheckIsExact : Obligations.AcyclicityCheckIsExact := by
  refine ⟨fun row => acyclic_iff_not_reaches, fun rom => ?_⟩
  rw [configure_isSome_iff, legalAlgRom_iff]
  constructor
  · rintro ⟨hrows, h22, h23, h29, h30, h31⟩
    refine ⟨fun a => ⟨(hrows a).2, acyclic_iff_not_reaches.1 (hrows a).1⟩, h31, ?_⟩
    rintro a (rfl | rfl | rfl | rfl)
    exacts [h22, h23, h29, h30]
  · rintro ⟨hrows, h31, hpinned⟩
    exact ⟨fun a => ⟨acyclic_iff_not_reaches.2 (hrows a).2, (hrows a).1⟩, hpinned 22 (by decide),
      hpinned 23 (by decide), hpinned 29 (by decide), hpinned 30 (by decide), h31⟩

end Sys2Proof.Machine
end

section
/-! PROOF. The router solves the modulation equations (rules R121, R122, R126). -/

namespace Sys2Proof.Machine

open Sys2Proof.Config

section
variable {row : AlgRow} {ops : Vector Op 6}

/-- The right side of operator `t`'s modulation equation, for given outputs of the operators (rule R122). -/
def modulated (row : AlgRow) (ops : Vector Op 6) (out : Fin 6 → Int) (t : Fin 6) : Int :=
  gen ops[t] (rnd (∑ m : Fin 6, if modulates row m t then out m * ops[m].modidx else 0) one)

theorem opOut_succ (k : Nat) (t : Fin 6) :
    opOut row ops (k + 1) t = modulated row ops (opOut row ops k) t := by
  rw [opOut, sumOver_eq_sum, modulated]

/-- The right side reads the outputs of the operator's modulators only. -/
theorem modulated_congr {out out' : Fin 6 → Int} {t : Fin 6}
    (h : ∀ m, modulates row m t = true → out m = out' m) :
    modulated row ops out t = modulated row ops out' t := by
  have hsum : ∀ m, (if modulates row m t then out m * ops[m].modidx else 0) =
      if modulates row m t then out' m * ops[m].modidx else 0 := fun m => by
    split
    · next hm => rw [h m hm]
    · rfl
  simp only [modulated, hsum]

/-- Wherever an evaluation in rounds starts, after `k` rounds the operators that end no chain of `k` edges
have the outputs the router gives them. -/
theorem rounds_eq_opOut {out : Nat → Fin 6 → Int} (hout : ∀ j t, out (j + 1) t = modulated row ops (out j) t)
    (j : Nat) {k : Nat} {t : Fin 6} (h : hasChain row k t = false) : out (j + k) t = opOut row ops k t := by
  induction k generalizing t with
  | zero => cases h
  | succ k ih =>
    rw [← Nat.add_assoc, hout, opOut_succ]
    refine modulated_congr fun m hm => ih (Bool.eq_false_iff.2 fun hchain => ?_)
    exact Bool.false_ne_true (h.symm.trans (hasChain_succ_iff.2 ⟨m, hm, hchain⟩))

/-- The router's outputs satisfy the equations: a seventh level adds nothing (rule R121). -/
theorem opOut_eq_modulated (h : acyclic row = true) (t : Fin 6) :
    opOut row ops 6 t = modulated row ops (opOut row ops 6) t := by
  rw [← rounds_eq_opOut opOut_succ 1 (acyclic_iff.1 h t), opOut_succ]

/-- A solution of the equations is its own next round, so it is the router's. -/
theorem eq_opOut_of_eq_modulated (h : acyclic row = true) {out : Fin 6 → Int}
    (hout : ∀ t, out t = modulated row ops out t) : out = opOut row ops 6 :=
  funext fun t => rounds_eq_opOut (out := fun _ => out) (fun _ => hout) 0 (acyclic_iff.1 h t)

end

theorem route_eq_sum (row : AlgRow) (ops : Vector Op 6) :
    route row ops = ∑ i : Fin 6, if isCarrier row i then opOut row ops 6 i else 0 := sumOver_eq_sum _

/-- Settles O41: existence, uniqueness, and the sum of the carriers. -/
theorem routerSolvesTheModulationEquations : Obligations.RouterSolvesTheModulationEquations :=
  fun row ops h => ⟨opOut_eq_modulated h, fun _ => eq_opOut_of_eq_modulated h, route_eq_sum row ops⟩

end Sys2Proof.Machine
end

section
/-! PROOF. The five pinned rows, and this machine's table (rules R123 to R125). -/

namespace Sys2Proof.Machine

open Sys2Proof.Config

/-- The reference table is legal: its 32 rows pass the checks (rule R125; spec/93 I2). -/
theorem legalAlgRom_algRom : legalAlgRom algRom = true := by
  refine legalAlgRom_iff.2 ⟨?_, rfl, rfl, rfl, rfl, rfl⟩
  decide +kernel

theorem configure_algRom : configure algRom = some step := if_pos legalAlgRom_algRom

theorem coreOf_algRom : coreOf algRom = some Sys2Proof.core := by
  rw [coreOf, configure_algRom]
  rfl

theorem opOut_of_unmodulated {row : AlgRow} {t : Fin 6} (h : ∀ m, modulates row m t = false)
    (ops : Vector Op 6) (k : Nat) : opOut row ops (k + 1) t = gen ops[t] 0 := by
  simp [opOut_succ, modulated, h]

theorem modulates_allCarriersRow : ∀ m t, modulates allCarriersRow m t = false := by decide

theorem isCarrier_allCarriersRow : ∀ i, isCarrier allCarriersRow i = true := by decide

theorem modulates_allIntoOneRow : ∀ m t, modulates allIntoOneRow m t = (decide (t = 0) && !decide (m = 0)) := by
  decide

theorem isCarrier_allIntoOneRow : ∀ i, isCarrier allIntoOneRow i = decide (i = 0) := by decide

/-- Six carriers without an edge: the sum of the unmodulated outputs (rule R123). -/
theorem route_allCarriersRow (ops : Vector Op 6) : route allCarriersRow ops = ∑ i : Fin 6, gen ops[i] 0 := by
  simp only [route_eq_sum, isCarrier_allCarriersRow, if_true,
    opOut_of_unmodulated (fun m => modulates_allCarriersRow m _)]

theorem opOut_allIntoOneRow_of_ne {m : Fin 6} (hm : m ≠ 0) (ops : Vector Op 6) (k : Nat) :
    opOut allIntoOneRow ops (k + 1) m = gen ops[m] 0 :=
  opOut_of_unmodulated (fun m' => by simp [modulates_allIntoOneRow, hm]) ops k

/-- Operators 1..5 into carrier 0: it is modulated by the other five, which nothing modulates (rule R124). -/
theorem route_allIntoOneRow (ops : Vector Op 6) : route allIntoOneRow ops =
    gen ops[(0 : Fin 6)] (rnd (∑ m : Fin 6, if m = 0 then 0 else gen ops[m] 0 * ops[m].modidx) one) := by
  have hroute : route allIntoOneRow ops = opOut allIntoOneRow ops 6 0 := by
    simp [route_eq_sum, isCarrier_allIntoOneRow]
  have hmod : ∀ m : Fin 6, (if modulates allIntoOneRow m 0 then opOut allIntoOneRow ops 5 m * ops[m].modidx
      else 0) = if m = 0 then 0 else gen ops[m] 0 * ops[m].modidx := fun m => by
    by_cases hm : m = 0
    · simp [hm, modulates_allIntoOneRow]
    · simp [hm, modulates_allIntoOneRow, opOut_allIntoOneRow_of_ne]
  rw [hroute, opOut_succ, modulated]
  simp only [hmod]

/-- Settles O42: a legal table has the two pinned rows, whose routes are known. -/
theorem pinnedAlgorithmsAreAsTheSourceFixesThem : Obligations.PinnedAlgorithmsAreAsTheSourceFixesThem := by
  refine ⟨legalAlgRom_algRom, configure_algRom, coreOf_algRom, fun rom ops hlegal => ?_⟩
  obtain ⟨_, h22, h23, h29, h30, h31⟩ := legalAlgRom_iff.1 hlegal
  rw [h22, h23, h29, h30, h31]
  exact ⟨route_allCarriersRow ops, route_allIntoOneRow ops, rfl, rfl, rfl⟩

end Sys2Proof.Machine
end

section
/-! PROOF. What a free voice holds is never observed (rules R131, R140, R150, R241). -/

namespace Sys2Proof.Machine

open Sys2Proof.Config

/-- A voice as `eraseFree` leaves it: a free one as it is after reset. -/
def Voice.eraseFree (vc : Voice) : Voice := if vc.active then vc else Voice.reset

theorem eraseFree_eq (s : State) : eraseFree s = { s with voices := each Voice.eraseFree s.voices } := rfl

@[simp] theorem eraseFree_voices (s : State) (v : Fin 16) :
    (eraseFree s).voices[v] = s.voices[v].eraseFree := getElem_each v _ _

theorem Voice.eraseFree_of_active {vc : Voice} (h : vc.active = true) : vc.eraseFree = vc := if_pos h

theorem Voice.eraseFree_of_free {vc : Voice} (h : vc.active = false) : vc.eraseFree = Voice.reset :=
  if_neg (Bool.eq_false_iff.1 h)

@[simp] theorem Voice.eraseFree_active (vc : Voice) : vc.eraseFree.active = vc.active := by
  cases h : vc.active with
  | true => rw [eraseFree_of_active h, h]
  | false => rw [eraseFree_of_free h]; rfl

/-- `f` makes no free voice active. -/
def KeepsFree (f : Voice → Voice) : Prop := ∀ vc, vc.active = false → (f vc).active = false

/-- What `f` makes of an active voice it makes of it after the erasure too, and of a free voice it makes a
free one, which is erased. -/
theorem KeepsFree.eraseFree {f : Voice → Voice} (hf : KeepsFree f) (vc : Voice) :
    (f vc.eraseFree).eraseFree = (f vc).eraseFree := by
  cases h : vc.active with
  | true => rw [Voice.eraseFree_of_active h]
  | false =>
    rw [Voice.eraseFree_of_free (hf vc h),
      Voice.eraseFree_of_free (hf vc.eraseFree ((Voice.eraseFree_active vc).trans h))]

theorem keepsFree_id : KeepsFree id := fun _ h => h

/-! ### What an update of the erased state leaves, but for free voices -/

section
variable (s : State)

theorem eachVoice_eraseFree {f : Voice → Voice} (hf : KeepsFree f) :
    eraseFree ((eraseFree s).eachVoice f) = eraseFree (s.eachVoice f) := by
  have hv : each Voice.eraseFree (each f (each Voice.eraseFree s.voices)) =
      each Voice.eraseFree (each f s.voices) :=
    bank_ext fun v => by simp only [getElem_each, hf.eraseFree]
  exact congrArg (fun vs => { s with voices := vs }) hv

theorem eraseFree_eraseFree : eraseFree (eraseFree s) = eraseFree s := by
  have hv : each Voice.eraseFree (each Voice.eraseFree s.voices) = each Voice.eraseFree s.voices :=
    bank_ext fun v => by simp only [getElem_each]; exact keepsFree_id.eraseFree _
  exact congrArg (fun vs => { s with voices := vs }) hv

/-- An update that commutes with the erasure. -/
theorem eraseFree_of_eq {t u : State} (h : u = eraseFree t) : eraseFree u = eraseFree t := by
  rw [h, eraseFree_eraseFree]

theorem updVoice_eraseFree (v : Fin 16) {f : Voice → Voice}
    (hf : (f s.voices[v].eraseFree).eraseFree = (f s.voices[v]).eraseFree) :
    eraseFree ((eraseFree s).updVoice v f) = eraseFree (s.updVoice v f) := by
  have hv : each Voice.eraseFree (updAt v f (each Voice.eraseFree s.voices)) =
      each Voice.eraseFree (updAt v f s.voices) :=
    bank_ext fun w => by
      simp only [getElem_each, getElem_updAt]
      split
      · exact hf
      · exact keepsFree_id.eraseFree _
  exact congrArg (fun vs => { s with voices := vs }) hv

theorem withOp_eraseFree (voice : IdxField) (op : OpiField) (f : Op → Op) :
    eraseFree (withOp voice op f (eraseFree s)) = eraseFree (withOp voice op f s) := by
  unfold withOp
  split
  · next v i _ _ =>
    have hf : KeepsFree fun vc => { vc with ops := updAt i f vc.ops } := fun _ h => h
    exact updVoice_eraseFree s v (hf.eraseFree _)
  · exact eraseFree_eraseFree s

theorem releaseWhere_eraseFree (p : Voice → Bool) :
    eraseFree (releaseWhere p (eraseFree s)) = eraseFree (releaseWhere p s) :=
  eachVoice_eraseFree s fun vc h => by rw [h]; exact h

theorem broadcast_eraseFree (c : Fin 8) (f : Op → Op) :
    eraseFree (broadcast c f (eraseFree s)) = eraseFree (broadcast c f s) :=
  eachVoice_eraseFree s fun vc h => by rw [h]; exact h

theorem setRate_eraseFree (fs : Int) : eraseFree (setRate fs (eraseFree s)) = eraseFree (setRate fs s) :=
  eachVoice_eraseFree { s with fs := fs, tstep := tstepOf fs, chorusLfo := chorusLfoOf fs } fun _ h => h

theorem findFree_eraseFree : findFree (eraseFree s) = findFree s := by
  simp only [findFree, eraseFree_voices, Voice.eraseFree_active]

theorem noteOn_eq_updVoice (n : Fin 128) (x : Int) :
    noteOn n x s = s.updVoice ((findFree s).getD 0) fun _ => startVoice s n x := by
  obtain ⟨v, hv | ⟨hnone, rfl⟩, h⟩ := noteOn_cases n x s
  · rw [h, hv]; rfl
  · rw [h, hnone]; rfl

/-- The allocator reads the `ACTIVE` bits only, and the new voice replaces all the old one held (rules R130,
R131). -/
theorem noteOn_eraseFree (n : Fin 128) (x : Int) :
    eraseFree (noteOn n x (eraseFree s)) = eraseFree (noteOn n x s) := by
  have hstart : startVoice (eraseFree s) n x = startVoice s n x := rfl
  rw [noteOn_eq_updVoice, noteOn_eq_updVoice, findFree_eraseFree, hstart]
  exact updVoice_eraseFree s _ rfl

end

/-- No command reads more of a free voice than its `ACTIVE` bit (rules R131, R150). -/
theorem exec_eraseFree {i : Instr} {s t u : State} (ht : exec i s = .next t)
    (hu : exec i (eraseFree s) = .next u) : eraseFree u = eraseFree t := by
  cases i with
  | nop => cases ht; cases hu; exact eraseFree_eraseFree s
  | noteOn note vel =>
    cases ht; cases hu
    split
    · exact noteOn_eraseFree s _ _
    · exact eraseFree_eraseFree s
  | noteOff note =>
    cases ht; cases hu
    split
    · exact releaseWhere_eraseFree s _
    · exact eraseFree_eraseFree s
  | allNotesOff => cases ht; cases hu; exact releaseWhere_eraseFree s _
  | setAlgorithm chan index => cases ht; cases hu; split <;> exact eraseFree_of_eq rfl
  | setOpFreq voice op hz => cases ht; cases hu; exact withOp_eraseFree s voice op _
  | setOpAmp voice op amp => cases ht; cases hu; exact withOp_eraseFree s voice op _
  | setOpModidx voice op mi => cases ht; cases hu; exact withOp_eraseFree s voice op _
  | setOpWave voice op wave =>
    cases ht; cases hu
    split
    · exact withOp_eraseFree s voice op _
    · exact eraseFree_eraseFree s
  | setEnvelope voice op a d su r => cases ht; cases hu; exact withOp_eraseFree s voice op _
  | setMasterVol vol => cases ht; cases hu; exact eraseFree_of_eq rfl
  | setSampleRate hz => cases ht; cases hu; exact setRate_eraseFree s _
  | setPitchBend chan mult =>
    cases ht; cases hu
    split
    · exact broadcast_eraseFree (s.updChan _ fun ch => { ch with pb := posArg mult }) _ _
    · exact eraseFree_eraseFree s
  | setModWheel chan value =>
    cases ht; cases hu
    split
    · exact broadcast_eraseFree (s.updChan _ fun ch => { ch with mw := unitArg value }) _ _
    · exact eraseFree_eraseFree s
  | setReverb amount => cases ht; cases hu; exact eraseFree_of_eq rfl
  | setChorus amount => cases ht; cases hu; exact eraseFree_of_eq rfl
  | setDistortion amount => cases ht; cases hu; exact eraseFree_of_eq rfl
  | setTplOsc op ratio amp mi wave => cases ht; cases hu; split <;> exact eraseFree_of_eq rfl
  | setTplEnv op a d su r => cases ht; cases hu; split <;> exact eraseFree_of_eq rfl
  | setCurChan chan => cases ht; cases hu; split <;> exact eraseFree_of_eq rfl
  | start => cases ht; cases hu; exact eraseFree_of_eq rfl
  | stop => cases ht; cases hu; exact eraseFree_of_eq rfl
  | clrOverrun => cases ht; cases hu; exact eraseFree_of_eq rfl

/-! ### Ticks and pops -/

section
variable (rom : AlgRom) (p : FxParams) (s : State)

theorem voiceSample_keepsFree : KeepsFree fun vc => (voiceSample rom p s vc).1 := fun _ h =>
  (congrArg (fun r => r.1.active) (voiceSample_of_inactive rom p s h)).trans h

/-- A free voice gives no sample, erased or not (rule R140). -/
theorem voiceSample_snd_eraseFree (vc : Voice) :
    (voiceSample rom p (eraseFree s) vc.eraseFree).2 = (voiceSample rom p s vc).2 := by
  cases h : vc.active with
  | true => rw [Voice.eraseFree_of_active h]; rfl
  | false =>
    rw [voiceSample_of_inactive rom p s h,
      voiceSample_of_inactive rom p _ ((Voice.eraseFree_active vc).trans h)]

theorem frame_eraseFree : frame rom p (eraseFree s) = frame rom p s := by
  simp only [frame, sideSum, eraseFree_voices, voiceSample_snd_eraseFree]

theorem fifoPush_eraseFree (l r : Int) : eraseFree (fifoPush l r s) = fifoPush l r (eraseFree s) := by
  unfold fifoPush
  rw [apply_ite eraseFree]
  rfl

theorem generate_eraseFree (rem : Nat) :
    eraseFree (generate rom p rem (eraseFree s)) = eraseFree (generate rom p rem s) := by
  have hvoices := eachVoice_eraseFree { s with batchRem := rem - 1 } (voiceSample_keepsFree rom p s)
  unfold generate
  rw [frame_eraseFree, fifoPush_eraseFree, fifoPush_eraseFree]
  exact congrArg (fifoPush _ _) hvoices

theorem anyActive_eraseFree : anyActive (eraseFree s) = anyActive s := by
  simp only [anyActive, eraseFree_voices, Voice.eraseFree_active]

theorem tickWith_eraseFree : eraseFree (tickWith rom p (eraseFree s)) = eraseFree (tickWith rom p s) := by
  have hrem : (eraseFree s).batchRem = s.batchRem := rfl
  have hrun : (eraseFree s).run = s.run := rfl
  unfold tickWith
  rw [anyActive_eraseFree, hrem, hrun]
  split
  · split
    · exact generate_eraseFree rom p s _
    · exact eraseFree_eraseFree s
  · exact generate_eraseFree rom p s _

theorem pop_eraseFree : pop (eraseFree s) = eraseFree (pop s) := by
  have hfifo : (eraseFree s).fifo = s.fifo := rfl
  unfold pop
  rw [hfifo]
  split <;> rfl

end

/-! ### Events and steps -/

theorem performWith_eraseFree {rom : AlgRom} {e : Event} {s t u : State}
    (ht : performWith rom e s = .next t) (hu : performWith rom e (eraseFree s) = .next u) :
    eraseFree u = eraseFree t := by
  cases e with
  | command w =>
    change runWord w s = .next t at ht
    change runWord w (eraseFree s) = .next u at hu
    cases hw : decode w with
    | error e =>
      rw [runWord_error hw] at ht hu
      cases ht; cases hu
      exact eraseFree_eraseFree s
    | ok i =>
      rw [runWord_ok hw] at ht hu
      exact exec_eraseFree ht hu
  | tick => cases ht; cases hu; exact tickWith_eraseFree rom Config.fx s
  | pop => cases ht; cases hu; exact eraseFree_of_eq (pop_eraseFree s)
  | reset => cases ht; cases hu; rfl

theorem stepWith_eraseFree (rom : AlgRom) (s t u : State) (ht : stepWith rom s = .next t)
    (hu : stepWith rom (eraseFree s) = .next u) : eraseFree u = eraseFree t := by
  have hnext : nextEvent (eraseFree s) = nextEvent s := rfl
  cases hn : nextEvent s with
  | none =>
    rw [stepWith_none rom hn] at ht
    rw [stepWith_none rom (hnext.trans hn)] at hu
    cases ht; cases hu
    exact eraseFree_eraseFree s
  | some taken =>
    rw [stepWith_some rom hn] at ht
    rw [stepWith_some rom (hnext.trans hn)] at hu
    exact performWith_eraseFree ht hu

/-- Settles O60: commands and ticks read of a free voice its `ACTIVE` bit alone, and leave it free unless
they write all of it. -/
theorem freeVoicesAreUnobservable : Obligations.FreeVoicesAreUnobservable :=
  forall_configured (Q := fun f => ∀ s t u : State, f s = .next t → f (eraseFree s) = .next u →
    eraseFree u = eraseFree t) stepWith_eraseFree

end Sys2Proof.Machine
end

section
/-! PROOF. The voice allocator and the note commands (rules R130 to R134). -/

namespace Sys2Proof.Machine

/-! ### The free voice -/

/-- The search of rule R130 is the library's search for the least index. -/
theorem findFree_eq_find (s : State) : findFree s = Fin.find? fun v => !s.voices[v].active :=
  Fin.find?_eq_find?_finRange.symm

theorem findFree_eq_some_iff (s : State) (v : Fin 16) : findFree s = some v ↔
    s.voices[v].active = false ∧ ∀ u : Fin 16, u < v → s.voices[u].active = true := by
  rw [findFree_eq_find, Fin.find?_eq_some_iff]
  simp only [Bool.not_eq_true', Bool.not_eq_false']

theorem findFree_eq_none_iff (s : State) : findFree s = none ↔ ∀ v : Fin 16, s.voices[v].active = true := by
  rw [findFree_eq_find, Fin.find?_eq_none_iff]
  simp only [Bool.not_eq_false']

/-- Settles O24: `FindFree` is a search for the least index whose `ACTIVE` bit is clear. -/
theorem findFreeIsTheLowestFreeVoice : Obligations.FindFreeIsTheLowestFreeVoice := fun s =>
  ⟨findFree_eq_some_iff s, findFree_eq_none_iff s⟩

/-! ### A note out of range -/

theorem rangeOk_note_eq_false {a : Arg} (h : a.toInt < 0 ∨ 127 < a.toInt) : rangeOk a 127 = false := by
  rw [rangeOk_note_eq_isSome, noteNum_eq_none h]; rfl

/-! ### What the commands with a legal note do -/

theorem exec_noteOn (s : State) (n : Fin 128) (vel : Arg) :
    exec (.noteOn (BitVec.ofNat 48 n.val) vel) s = .next (noteOn n (unitArg vel) s) := by
  simp only [exec, execNoteOn, noteNum_ofNat]

theorem exec_noteOff (s : State) (n : Fin 128) :
    exec (.noteOff (BitVec.ofNat 48 n.val)) s =
      .next (releaseWhere (fun vc => decide (vc.note = n.val)) s) := by
  simp only [exec, execNoteOff, noteNum_ofNat]

/-- The voice `NOTE_ON` builds has the registers rule R131 lists. -/
theorem startVoice_isNewNote (s : State) (n : Fin 128) (vel : Int) :
    IsNewNote s n vel (startVoice s n vel) := by
  refine ⟨rfl, rfl, rfl, rfl, fun i => ?_⟩
  rw [startVoice_ops]
  exact ⟨rfl, rfl, rfl, rfl, rfl, rfl, rfl, rfl, rfl, rfl, rfl, rfl, rfl, rfl, rfl, rfl⟩

/-- The voice `NOTE_ON` takes: the free voice, or voice 0 when there is none (rules R131, R132). -/
theorem findFree_getD_zero {s : State} {v : Fin 16}
    (h : (s.voices[v].active = false ∧ ∀ u : Fin 16, u < v → s.voices[u].active = true) ∨
      (v = 0 ∧ ∀ u : Fin 16, s.voices[u].active = true)) : (findFree s).getD 0 = v := by
  rcases h with hfree | ⟨rfl, hall⟩
  · rw [(findFree_eq_some_iff s v).2 hfree]; rfl
  · rw [(findFree_eq_none_iff s).2 hall]; rfl

/-- Settles O25: `NOTE_ON` replaces the one voice it takes by the voice rule R131 describes. -/
theorem noteOnStartsTheLowestFreeVoice : Obligations.NoteOnStartsTheLowestFreeVoice := by
  refine ⟨fun w h => by simp only [decode, h], fun s n vel v hv => ?_, fun s a vel ha =>
    droppedCommandChangesNothing _ s (rangeOk_note_eq_false ha)⟩
  refine ⟨_, exec_noteOn s n vel, ?_⟩
  rw [noteOn_eq_updVoice, findFree_getD_zero hv]
  refine ⟨onlyVoice_updVoice v s _, ?_⟩
  rw [updVoice_voices, getElem_updAt_self]
  exact startVoice_isNewNote s n _

/-- Settles O26: `NOTE_OFF` releases where the note is held. -/
theorem noteOffReleasesEveryMatchingVoice : Obligations.NoteOffReleasesEveryMatchingVoice := by
  refine ⟨fun w h => by simp only [decode, h], fun s n => ⟨_, exec_noteOff s n, ?_⟩, fun s a ha =>
    droppedCommandChangesNothing _ s (rangeOk_note_eq_false ha)⟩
  simpa only [Bool.and_eq_true, decide_eq_true_eq] using
    releaseWhere_spec (fun vc => decide (vc.note = n.val)) s

/-- Settles O27: `ALL_NOTES_OFF` releases without a condition on the note. -/
theorem allNotesOffReleasesEveryActiveVoice : Obligations.AllNotesOffReleasesEveryActiveVoice := by
  refine ⟨fun w h => by simp only [decode, h], fun s => ⟨releaseWhere (fun _ => true) s, rfl, ?_⟩⟩
  simpa only [Bool.and_true] using releaseWhere_spec (fun _ => true) s

end Sys2Proof.Machine
end

section
/-! PROOF. The samples of the sixteen voices: their order, their conversion, and silence (rules R140 to R148,
R206). -/

namespace Sys2Proof.Machine

open Sys2Proof.Config

/-- What voice `v` adds to the sum of the side its parity names; `sideSum` is its sum over the voices
(rules R144, R145). -/
def sideSample (rom : AlgRom) (p : FxParams) (s : State) (parity : Nat) (v : Fin 16) : Int :=
  if v.val % 2 = parity then (voiceSample rom p s s.voices[v]).2.getD 0 else 0

section
variable (rom : AlgRom) (p : FxParams) (s : State)

theorem sideSum_eq_sum (parity : Nat) : sideSum rom p s parity = ∑ v, sideSample rom p s parity v :=
  sumOver_eq_sum _

/-! ### Stepping the voices one after the other -/

/-- A voice reads no register of another: its sample is the same whatever the bank of voices holds
(rule R142). -/
theorem voiceSample_updVoice (v : Fin 16) (f : Voice → Voice) (vc : Voice) :
    voiceSample rom p (s.updVoice v f) vc = voiceSample rom p s vc := rfl

theorem updVoice_voices_ne {u v : Fin 16} (h : v ≠ u) (f : Voice → Voice) :
    (s.updVoice v f).voices[u] = s.voices[u] := by
  rw [updVoice_voices, getElem_updAt_ne h]

theorem sideSample_updVoice_ne {u v : Fin 16} (h : v ≠ u) (f : Voice → Voice) (parity : Nat) :
    sideSample rom p (s.updVoice v f) parity u = sideSample rom p s parity u := by
  simp only [sideSample, updVoice_voices_ne s h, voiceSample_updVoice]

theorem stepVoicesInOrder_frame (order : List (Fin 16)) :
    (stepVoicesInOrder rom p order s).1 =
      { s with voices := (stepVoicesInOrder rom p order s).1.voices } := by
  induction order generalizing s with
  | nil => rfl
  | cons v vs ih => exact ih _

/-- Stepped in an order without repetition, a voice of the order is what its sample leaves it, and any other
is as it was. -/
theorem stepVoicesInOrder_voices {order : List (Fin 16)} (h : order.Nodup) (u : Fin 16) :
    (stepVoicesInOrder rom p order s).1.voices[u] =
      if u ∈ order then (voiceSample rom p s s.voices[u]).1 else s.voices[u] := by
  induction order generalizing s with
  | nil => rfl
  | cons v vs ih =>
    obtain ⟨hv, hvs⟩ := List.nodup_cons.1 h
    simp only [stepVoicesInOrder, ih _ hvs, voiceSample_updVoice]
    by_cases hu : v = u
    · subst hu
      rw [if_neg hv, if_pos List.mem_cons_self, updVoice_voices, getElem_updAt_self]
    · simp only [updVoice_voices_ne s hu, List.mem_cons, Ne.symm hu, false_or]

/-- Stepped in an order without repetition, the sums are those of the samples from the state before. -/
theorem stepVoicesInOrder_sums {order : List (Fin 16)} (h : order.Nodup) :
    (stepVoicesInOrder rom p order s).2 =
      ((order.map (sideSample rom p s 0)).sum, (order.map (sideSample rom p s 1)).sum) := by
  induction order generalizing s with
  | nil => rfl
  | cons v vs ih =>
    obtain ⟨hv, hvs⟩ := List.nodup_cons.1 h
    have later (f : Voice → Voice) (parity : Nat) :
        vs.map (sideSample rom p (s.updVoice v f) parity) = vs.map (sideSample rom p s parity) :=
      List.map_congr_left fun u hu =>
        sideSample_updVoice_ne rom p s (ne_of_mem_of_not_mem hu hv).symm f parity
    simp only [stepVoicesInOrder, ih _ hvs, later, List.map_cons, List.sum_cons]
    rfl

end

/-- Settles O44: an order of all voices has no repetition and leaves none out, and a sum does not depend on
its order. -/
theorem voiceOrderIsNotObservable : Obligations.VoiceOrderIsNotObservable := by
  intro rom p s order hperm
  have hnodup : order.Nodup := hperm.nodup_iff.2 (List.nodup_finRange 16)
  have hvoices : (stepVoicesInOrder rom p order s).1.voices = (afterFrame rom p s).voices :=
    bank_ext fun v => by
      rw [stepVoicesInOrder_voices rom p s hnodup, if_pos (hperm.mem_iff.2 (List.mem_finRange v)),
        afterFrame_voices]
  have hsum (parity : Nat) :
      (order.map (sideSample rom p s parity)).sum = sideSum rom p s parity :=
    (hperm.map _).sum_eq
  refine Prod.ext ?_ ?_
  · rw [stepVoicesInOrder_frame, hvoices]; rfl
  · rw [stepVoicesInOrder_sums rom p s hnodup, hsum, hsum]

/-! ### Conversion -/

theorem clamp_mono {v w lo hi : Int} (hle : lo ≤ hi) (h : v ≤ w) : clamp v lo hi ≤ clamp w lo hi := by
  unfold clamp
  split_ifs <;> omega

theorem convert_within (x : Int) : Within (convert x) (-8192) 8191 := clamp_within (by decide)

theorem convert_mono {x y : Int} (h : x ≤ y) : convert x ≤ convert y :=
  clamp_mono (by decide) (rnd_mono (by decide) (by simp only [audioScale]; omega))

@[simp] theorem convert_zero : convert 0 = 0 := by decide

/-- Fourteen bits carry a value of the output range, and so does every wider word (rule R206). -/
theorem toInt_ofInt_of_within {n : Nat} {x : Int} (hn : 14 ≤ n) (h : Within x (-8192) 8191) :
    (BitVec.ofInt n x).toInt = x := by
  have hpow : (2 : Int) ^ 13 ≤ 2 ^ (n - 1) := pow_le_pow_right₀ (by decide) (by omega)
  exact BitVec.toInt_ofInt_eq_self (by omega) (by omega) (by omega)

/-- The stream word of a 14-bit value is the sign extension of its 14 bits (rule R206). -/
theorem ofInt_eq_signExtend {x : Int} (h : Within x (-8192) 8191) :
    BitVec.ofInt 16 x = (BitVec.ofInt 14 x).signExtend 16 := by
  apply BitVec.eq_of_toInt_eq
  rw [BitVec.toInt_signExtend_of_le (by decide), toInt_ofInt_of_within (by decide) h,
    toInt_ofInt_of_within (by decide) h]

/-- From bit 13 on it holds copies of the sign. -/
theorem getLsbD_ofInt_of_within {x : Int} (h : Within x (-8192) 8191) {i : Nat} (hlo : 13 ≤ i)
    (hhi : i < 16) : (BitVec.ofInt 16 x).getLsbD i = (BitVec.ofInt 14 x).msb := by
  rw [ofInt_eq_signExtend h, BitVec.getLsbD_signExtend, decide_eq_true hhi, Bool.true_and]
  split
  · next hlt => rw [show i = 14 - 1 by omega, BitVec.msb_eq_getLsbD_last]
  · rfl

/-- Settles O45: the range of `clamp`, the exact round trip of a 14-bit value, its top bits as copies of its
sign, and the monotonicity of `rnd` and `clamp`. -/
theorem convertClampsToFourteenBits : Obligations.ConvertClampsToFourteenBits := by
  refine ⟨fun x => ?_, fun _ _ => convert_mono⟩
  have h := convert_within x
  have h15 := getLsbD_ofInt_of_within h (i := 15) (by decide) (by decide)
  have h14 := getLsbD_ofInt_of_within h (i := 14) (by decide) (by decide)
  have h13 := getLsbD_ofInt_of_within h (i := 13) (by decide) (by decide)
  exact ⟨rfl, h, toInt_ofInt_of_within (by decide) h, h15.trans h14.symm, h14.trans h13.symm⟩

/-! ### Silence -/

theorem anyActive_eq_false_iff (s : State) :
    anyActive s = false ↔ ∀ v : Fin 16, s.voices[v].active = false := by
  rw [← Bool.not_eq_true, anyActive_iff, not_exists]
  simp only [Bool.not_eq_true]

section
variable {rom : AlgRom} {p : FxParams} {s : State}

/-- At master volume 0 every sample is 0 (rule R148). -/
theorem voiceSample_of_mvol_zero (h : s.mvol = 0) (vc : Voice) :
    (voiceSample rom p s vc).2.getD 0 = 0 := by
  rcases voiceSample_cases rom p s vc with ⟨_, he⟩ | ⟨_, _, he⟩ | ⟨_, _, he⟩ <;> rw [he]
  · rfl
  · rfl
  · rw [h, mulQ_zero_right]; rfl

/-- A side whose voices all add 0 is silent. -/
theorem convert_sideSum_eq_zero {parity : Nat} (h : ∀ v : Fin 16, v.val % 2 = parity →
    (voiceSample rom p s s.voices[v]).2.getD 0 = 0) : convert (sideSum rom p s parity) = 0 := by
  have hsum : sideSum rom p s parity = 0 := sumOver_zero fun v => ite_eq_right_iff.2 (h v)
  rw [hsum, convert_zero]

theorem convert_sideSum_of_inactive {parity : Nat}
    (h : ∀ v : Fin 16, v.val % 2 = parity → s.voices[v].active = false) :
    convert (sideSum rom p s parity) = 0 :=
  convert_sideSum_eq_zero fun v hv => by rw [voiceSample_of_inactive rom p s (h v hv)]; rfl

end

/-- Settles O46: `sideSum` is the sum over the voices, and a free voice or the volume 0 adds 0 to it. -/
theorem silentSidesGiveZero : Obligations.SilentSidesGiveZero := by
  intro rom p s
  refine ⟨?_, convert_sideSum_of_inactive, convert_sideSum_of_inactive, fun hnone => ?_, fun hvol => ?_⟩
  · simp only [frame, sideSum_eq_sum, sideSample]
  · have hfree := (anyActive_eq_false_iff s).1 hnone
    exact Prod.ext (convert_sideSum_of_inactive fun v _ => hfree v)
      (convert_sideSum_of_inactive fun v _ => hfree v)
  · exact Prod.ext (convert_sideSum_eq_zero fun v _ => voiceSample_of_mvol_zero hvol _)
      (convert_sideSum_eq_zero fun v _ => voiceSample_of_mvol_zero hvol _)

end Sys2Proof.Machine
end

section
/-! PROOF. What a `TICK` writes, and when it makes a frame (rules R140, R141, R196). -/

namespace Sys2Proof.Machine

open Sys2Proof.Config

/-- `o'` is `o` but for its envelope's state, level and time and its phase (rule R22). -/
def OpParamsKept (o o' : Op) : Prop :=
  o' = { o with es := o'.es, el := o'.el, et := o'.et, phase := o'.phase }

theorem OpParamsKept.trans {o o' o'' : Op} (h : OpParamsKept o o') (h' : OpParamsKept o' o'') :
    OpParamsKept o o'' := by
  unfold OpParamsKept at *
  rw [h', h]

/-- `vc'` is `vc` but for `ACTIVE`, `NOTE` and what its operators' envelopes and phases hold (rule R30). -/
structure VoiceParamsKept (vc vc' : Voice) : Prop where
  vel : vc'.vel = vc.vel
  chan : vc'.chan = vc.chan
  ops : ∀ i : Fin 6, OpParamsKept vc.ops[i] vc'.ops[i]

theorem VoiceParamsKept.refl (vc : Voice) : VoiceParamsKept vc vc := ⟨rfl, rfl, fun _ => rfl⟩

theorem VoiceParamsKept.eachOp {vc vc' : Voice} {f : Op → Op} (h : VoiceParamsKept vc vc')
    (hf : ∀ o, OpParamsKept o (f o)) : VoiceParamsKept vc (vc'.eachOp f) := by
  refine ⟨h.vel, h.chan, fun i => ?_⟩
  rw [eachOp_ops, getElem_each]
  exact (h.ops i).trans (hf _)

theorem envStep_paramsKept (ts : Int) (o : Op) : OpParamsKept o (envStep ts o) := by
  unfold OpParamsKept
  cases hes : o.es with
  | attack => rw [envStep_of_attack hes]; split <;> rfl
  | decay => rw [envStep_of_decay hes]; split <;> rfl
  | sustain => rw [envStep_of_sustain hes]
  | release => rw [envStep_of_release hes]; split <;> rfl
  | off => rw [envStep_of_off hes]

theorem voiceSample_paramsKept (rom : AlgRom) (p : FxParams) (s : State) (vc : Voice) :
    VoiceParamsKept vc (voiceSample rom p s vc).1 := by
  have hstep : VoiceParamsKept vc (vc.eachOp (envStep s.tstep)) :=
    (VoiceParamsKept.refl vc).eachOp (envStep_paramsKept s.tstep)
  rcases voiceSample_cases rom p s vc with ⟨_, he⟩ | ⟨_, _, he⟩ | ⟨_, _, he⟩ <;> rw [he]
  · exact .refl vc
  · exact { hstep with }
  · exact hstep.eachOp fun _ => rfl

/-- `t` is `s` but for the registers a `TICK` may write (rules R22, R30, R40). -/
structure TickFrame (s t : State) : Prop where
  rest : t = { s with voices := t.voices, batchRem := t.batchRem, overrun := t.overrun, fifo := t.fifo }
  voices : ∀ v : Fin 16, VoiceParamsKept s.voices[v] t.voices[v]

theorem generate_tickFrame (rom : AlgRom) (p : FxParams) (rem : Nat) (s : State) :
    TickFrame s (generate rom p rem s) := by
  obtain ⟨q, o, he, _⟩ := generate_eq rom p s rem
  rw [he]
  refine ⟨rfl, fun v => ?_⟩
  rw [afterFrame_voices]
  exact voiceSample_paramsKept rom p s _

theorem tickWith_tickFrame (rom : AlgRom) (p : FxParams) (s : State) :
    TickFrame s (tickWith rom p s) := by
  rcases tickWith_cases rom p s with ⟨_, _, he⟩ | ⟨_, _, he⟩ | ⟨_, he⟩ <;> rw [he]
  · exact ⟨rfl, fun v => .refl _⟩
  · exact generate_tickFrame rom p _ s
  · exact generate_tickFrame rom p _ s

/-- Settles O50: envelope steps and phase advances write the four registers of rule R22, a reclaim `ACTIVE`
and `NOTE`, and the sequencer the rest. -/
theorem tickKeepsEveryParameter : Obligations.TickKeepsEveryParameter := by
  rintro rom p s _ rfl
  obtain ⟨hrest, hvoices⟩ := tickWith_tickFrame rom p s
  exact ⟨hrest, fun v => ⟨(hvoices v).vel, (hvoices v).chan, (hvoices v).ops⟩⟩

section
variable {rom : AlgRom} {p : FxParams} {s : State}

theorem tickWith_of_idle (hrem : s.batchRem = 0) (h : ¬ (s.run && anyActive s) = true) :
    tickWith rom p s = s := by
  rw [tickWith, if_pos hrem, if_neg h]

theorem tickWith_of_starting (hrem : s.batchRem = 0) (h : (s.run && anyActive s) = true) :
    tickWith rom p s = generate rom p batchLen s := by
  rw [tickWith, if_pos hrem, if_pos h]

theorem tickWith_of_inBatch (hrem : 0 < s.batchRem) :
    tickWith rom p s = generate rom p s.batchRem s := by
  rw [tickWith, if_neg (Nat.ne_of_gt hrem)]

end

/-- Settles O49: the three branches of `tickWith`, the first two told apart by the condition that starts a
batch. -/
theorem tickRunsTheBatchSequencer : Obligations.TickRunsTheBatchSequencer := by
  refine ⟨fun _ => ⟨rfl, rfl⟩, fun _ _ => rfl, fun rom p s => ?_⟩
  have hstart : (s.run && anyActive s) = true ↔
      s.run = true ∧ ∃ v : Fin 16, s.voices[v].active = true := by
    rw [Bool.and_eq_true, anyActive_iff]
  exact ⟨fun hrem hidle => tickWith_of_idle hrem (hstart.not.2 hidle),
    fun hrem hrun hactive => tickWith_of_starting hrem (hstart.2 ⟨hrun, hactive⟩),
    tickWith_of_inBatch⟩

end Sys2Proof.Machine
end

section
/-! PROOF. The register setters: what each command writes, what it leaves alone, and what drops it (rules R150
to R169). -/

namespace Sys2Proof.Machine

open Sys2Proof.Config

/-! ### The checks that drop a command -/

theorem voiceOk_eq_false_iff {v : IdxField} : voiceOk v = false ↔ 15 < v.toNat := by
  rw [voiceOk, decide_eq_false_iff_not, Nat.not_le]

theorem chanOk_eq_false_iff {c : IdxField} : chanOk c = false ↔ 7 < c.toNat := by
  rw [chanOk, decide_eq_false_iff_not, Nat.not_le]

theorem opOk_eq_false_iff {o : OpiField} : opOk o = false ↔ 5 < o.toNat := by
  rw [opOk, decide_eq_false_iff_not, Nat.not_le]

theorem rangeOk_eq_false_iff {a : Arg} {hi : Int} : rangeOk a hi = false ↔ a.toInt < 0 ∨ hi < a.toInt := by
  rw [rangeOk, decide_eq_false_iff_not, not_and_or, Int.not_le, Int.not_le]

/-- The two index checks that every operator setter makes. -/
theorem operatorOk_eq_false_iff {v : IdxField} {o : OpiField} :
    (voiceOk v && opOk o) = false ↔ 15 < v.toNat ∨ 5 < o.toNat := by
  rw [Bool.and_eq_false_iff, voiceOk_eq_false_iff, opOk_eq_false_iff]

/-! ### Setters of one operator -/

/-- A command that hands the operator named by its index fields to `f` writes what `f` gives, to that operator
and to nothing else. -/
theorem exec_of_withOp {c : Instr} {v : Fin 16} {i : Fin 6} {f : Op → Op} {s : State}
    (h : exec c s = .next (withOp (BitVec.ofNat 5 v.val) (BitVec.ofNat 3 i.val) f s)) :
    ∃ t, exec c s = .next t ∧ OnlyOp v i s t ∧ t.voices[v].ops[i] = f s.voices[v].ops[i] := by
  rw [withOp_ofNat] at h
  exact ⟨s.updOp v i f, h, onlyOp_updOp v i s f, updOp_get v i s f⟩

/-- Reading the code of a waveform gives the waveform (rule R21). -/
@[simp] theorem waveArg_waveCode (w : Waveform) : waveArg (BitVec.ofNat 48 (waveCode w)) = some w := by
  cases w <;> decide

theorem exec_setOpFreq (s : State) (v : IdxField) (o : OpiField) (a : Arg) : exec (.setOpFreq v o a) s =
    .next (withOp v o (fun op => { op with freq := posArg a, pinc := pinc (posArg a) s.fs }) s) := rfl

theorem exec_setOpAmp (s : State) (v : IdxField) (o : OpiField) (a : Arg) : exec (.setOpAmp v o a) s =
    .next (withOp v o (fun op => { op with amp := unitArg a }) s) := rfl

theorem exec_setOpModidx (s : State) (v : IdxField) (o : OpiField) (a : Arg) : exec (.setOpModidx v o a) s =
    .next (withOp v o (fun op => { op with modidx := signedArg a }) s) := rfl

theorem exec_setEnvelope (s : State) (v : IdxField) (o : OpiField) (a d su r : Arg) :
    exec (.setEnvelope v o a d su r) s =
      .next (withOp v o (fun op =>
        { op with atk := timeArg a, dcy := timeArg d, sus := unitArg su, rel := timeArg r }) s) := rfl

theorem exec_setOpWave (s : State) (v : IdxField) (o : OpiField) (w : Waveform) :
    exec (.setOpWave v o (BitVec.ofNat 48 (waveCode w))) s =
      .next (withOp v o (fun op => { op with wave := w }) s) := by
  simp only [exec, execSetOpWave, waveArg_waveCode]

/-- Settles O14: the frequency and its increment go to the one operator named, as `withOp` does. -/
theorem setOpFreqWritesFrequencyAndIncrement : Obligations.SetOpFreqWritesFrequencyAndIncrement :=
  ⟨fun w h => by simp only [decode, h], fun s _ _ a => exec_of_withOp (exec_setOpFreq s _ _ a),
    fun s _ _ _ h => droppedCommandChangesNothing _ s (operatorOk_eq_false_iff.2 h)⟩

/-- Settles O15: each of the two commands hands one operator to `withOp`. -/
theorem setOpAmpAndModIndexWriteOneField : Obligations.SetOpAmpAndModIndexWriteOneField := by
  refine ⟨fun w h => by simp only [decode, h], fun w h => by simp only [decode, h],
    fun s _ _ a => ⟨exec_of_withOp (exec_setOpAmp s _ _ a), exec_of_withOp (exec_setOpModidx s _ _ a)⟩,
    fun s _ _ _ h => ?_⟩
  have hbad := operatorOk_eq_false_iff.2 h
  exact ⟨droppedCommandChangesNothing _ s hbad, droppedCommandChangesNothing _ s hbad⟩

/-- Settles O16: a legal code names a waveform, which goes to one operator; a bad index or code fails a check. -/
theorem setOpWaveWritesTheWaveform : Obligations.SetOpWaveWritesTheWaveform := by
  refine ⟨fun w h => by simp only [decode, h], fun s v i w => exec_of_withOp (exec_setOpWave s _ _ w),
    fun s v o a h => droppedCommandChangesNothing _ s ?_⟩
  rw [Instr.wellFormed, Bool.and_eq_false_iff, operatorOk_eq_false_iff, rangeOk_eq_false_iff, or_assoc]
  exact h

/-- Settles O17: the four envelope parameters go to the one operator named. -/
theorem setEnvelopeWritesTimesAndSustain : Obligations.SetEnvelopeWritesTimesAndSustain :=
  ⟨fun w h => by simp only [decode, h], fun s _ _ a d su r => exec_of_withOp (exec_setEnvelope s _ _ a d su r),
    fun s _ _ _ _ _ _ h => droppedCommandChangesNothing _ s (operatorOk_eq_false_iff.2 h)⟩

/-! ### Setters of one channel and of one template row -/

theorem exec_setAlgorithm (s : State) (c : Fin 8) (n : Fin 32) :
    exec (.setAlgorithm (BitVec.ofNat 5 c.val) (BitVec.ofNat 48 n.val)) s =
      .next (s.updChan c fun ch => { ch with alg := n }) := by
  simp only [exec, execSetAlgorithm, chanIdx_ofNat, algIdx_ofNat]

/-- Settles O13: the index goes to the one channel named; a bad channel or index fails a check. -/
theorem setAlgorithmWritesTheChannel : Obligations.SetAlgorithmWritesTheChannel := by
  refine ⟨fun w h => by simp only [decode, h],
    fun s c n => ⟨_, exec_setAlgorithm s c n, onlyChan_updChan c s _, ?_⟩,
    fun s c a h => droppedCommandChangesNothing _ s ?_⟩
  · rw [updChan_chans, getElem_updAt_self]
  · rw [Instr.wellFormed, Bool.and_eq_false_iff, chanOk_eq_false_iff, rangeOk_eq_false_iff]
    exact h

/-- A command whose effect is to update one template row writes what `f` gives, to that row and to nothing
else. -/
theorem exec_of_updTpl {c : Instr} {i : Fin 6} {f : TplRow → TplRow} {s : State}
    (h : exec c s = .next (s.updTpl i f)) :
    ∃ t, exec c s = .next t ∧ OnlyTpl i s t ∧ t.tpl[i] = f s.tpl[i] :=
  ⟨_, h, onlyTpl_updTpl i s f, by rw [updTpl_tpl, getElem_updAt_self]⟩

theorem exec_setTplOsc (s : State) (i : Fin 6) (ra am mi : Arg) (w : Waveform) :
    exec (.setTplOsc (BitVec.ofNat 3 i.val) ra am mi (BitVec.ofNat 48 (waveCode w))) s =
      .next (s.updTpl i fun r =>
        { r with ratio := posArg ra, amp := unitArg am, modidx := signedArg mi, wave := w }) := by
  simp only [exec, execSetTplOsc, opIdx_ofNat, waveArg_waveCode]

theorem exec_setTplEnv (s : State) (i : Fin 6) (a d su r : Arg) :
    exec (.setTplEnv (BitVec.ofNat 3 i.val) a d su r) s =
      .next (s.updTpl i fun row =>
        { row with atk := timeArg a, dcy := timeArg d, sus := unitArg su, rel := timeArg r }) := by
  simp only [exec, execSetTplEnv, opIdx_ofNat]

/-- Settles O21: each command updates the one row named; a bad row or waveform code fails a check. -/
theorem templateCommandsWriteOneRow : Obligations.TemplateCommandsWriteOneRow := by
  refine ⟨fun w h => by simp only [decode, h], fun w h => by simp only [decode, h],
    fun s i ra am mi w => exec_of_updTpl (exec_setTplOsc s i ra am mi w),
    fun s i a d su r => exec_of_updTpl (exec_setTplEnv s i a d su r),
    fun s o ra am mi w h => droppedCommandChangesNothing _ s ?_,
    fun s o a d su r h => droppedCommandChangesNothing _ s (opOk_eq_false_iff.2 h)⟩
  rw [Instr.wellFormed, Bool.and_eq_false_iff, opOk_eq_false_iff, rangeOk_eq_false_iff]
  exact h

/-! ### Setters of a channel and its active voices -/

/-- Everything a write to a channel with its broadcast does: the channel and the operators of its active voices
change, and nothing else (rules R161, R162). -/
theorem broadcast_updChan_spec (c : Fin 8) (f : Op → Op) (g : Channel → Channel) {s t : State}
    (ht : t = broadcast c f (s.updChan c g)) :
    t = { s with chans := t.chans, voices := t.voices } ∧
    (∀ c' : Fin 8, t.chans[c'] = if c' = c then g s.chans[c'] else s.chans[c']) ∧
    ∀ v : Fin 16, t.voices[v] = { s.voices[v] with ops := t.voices[v].ops } ∧
      ∀ i : Fin 6, t.voices[v].ops[i] =
        if s.voices[v].active = true ∧ s.voices[v].chan = c then f s.voices[v].ops[i]
        else s.voices[v].ops[i] := by
  subst ht
  refine ⟨rfl, fun c' => ?_, ?_⟩
  · change (updAt c g s.chans)[c'] = _
    obtain rfl | hc := eq_or_ne c' c
    · rw [getElem_updAt_self, if_pos rfl]
    · rw [getElem_updAt_ne hc.symm, if_neg hc]
  · obtain ⟨_, hvoices⟩ := broadcast_spec c f (s.updChan c g)
    simp only [Bool.and_eq_true, decide_eq_true_eq] at hvoices
    exact hvoices

theorem exec_setPitchBend (s : State) (c : Fin 8) (a : Arg) :
    exec (.setPitchBend (BitVec.ofNat 5 c.val) a) s =
      .next (broadcast c (fun o => { o with pb := posArg a })
        (s.updChan c fun ch => { ch with pb := posArg a })) := by
  simp only [exec, execSetPitchBend, chanIdx_ofNat]

theorem exec_setModWheel (s : State) (c : Fin 8) (a : Arg) :
    exec (.setModWheel (BitVec.ofNat 5 c.val) a) s =
      .next (broadcast c (fun o => { o with mw := unitArg a })
        (s.updChan c fun ch => { ch with mw := unitArg a })) := by
  simp only [exec, execSetModWheel, chanIdx_ofNat]

/-- Settles O20: both commands write a channel and broadcast the value to its active voices. -/
theorem bendAndWheelAreBroadcast : Obligations.BendAndWheelAreBroadcast := by
  refine ⟨fun w h => by simp only [decode, h], fun w h => by simp only [decode, h],
    fun s c a => ⟨⟨_, exec_setPitchBend s c a, broadcast_updChan_spec c _ _ rfl⟩,
      ⟨_, exec_setModWheel s c a, broadcast_updChan_spec c _ _ rfl⟩⟩, fun s c a h => ?_⟩
  have hbad := chanOk_eq_false_iff.2 h
  exact ⟨droppedCommandChangesNothing _ s hbad, droppedCommandChangesNothing _ s hbad⟩

/-! ### Setters of global registers, and `NOP` -/

/-- `TSTEP` is one second in T32, `2^32`, divided by the rate and rounded up (rules R7, R184). -/
theorem tstepOf_eq (fs : Int) : tstepOf fs = ceilDiv (2 ^ 32) fs := by
  rw [tstepOf, show tone = 2 ^ 32 by norm_num]

/-- Everything a change of the sample rate does to the operators: each increment is recomputed, whether the
voice is active or not (rule R160). -/
theorem setRate_voices (fs : Int) (s : State) (v : Fin 16) :
    (setRate fs s).voices[v] = { s.voices[v] with ops := (setRate fs s).voices[v].ops } ∧
      ∀ i : Fin 6, (setRate fs s).voices[v].ops[i] =
        { s.voices[v].ops[i] with pinc := pinc s.voices[v].ops[i].freq fs } := by
  have hvoice : (setRate fs s).voices[v] = s.voices[v].eachOp fun o => { o with pinc := pinc o.freq fs } :=
    getElem_each v _ _
  rw [hvoice]
  exact ⟨rfl, fun i => getElem_each i _ _⟩

/-- Settles O19: the rate, what derives from it, and the increments. -/
theorem setSampleRateRecomputesDerivedRegisters : Obligations.SetSampleRateRecomputesDerivedRegisters := by
  refine ⟨fun w h => by simp only [decode, h], fun s a => ⟨setRate (rateArg a) s, rfl, ?_, setRate_voices _ s⟩⟩
  rw [← tstepOf_eq]
  rfl

/-- Settles O18: each command writes its register with the clamped argument and checks nothing. -/
theorem unitGlobalsAreClampedAndWritten : Obligations.UnitGlobalsAreClampedAndWritten :=
  ⟨fun w h => by simp only [decode, h], fun w h => by simp only [decode, h],
    fun w h => by simp only [decode, h], fun w h => by simp only [decode, h],
    fun _ _ => ⟨rfl, rfl, rfl, rfl⟩⟩

theorem exec_setCurChan (s : State) (c : Fin 8) :
    exec (.setCurChan (BitVec.ofNat 5 c.val)) s = .next { s with curChan := c } := by
  simp only [exec, execSetCurChan, chanIdx_ofNat]

/-- Settles O22: a legal channel is written, and any other fails the check. -/
theorem setCurChanWritesTheRegister : Obligations.SetCurChanWritesTheRegister :=
  ⟨fun w h => by simp only [decode, h], exec_setCurChan, fun s _ h =>
    droppedCommandChangesNothing _ s (chanOk_eq_false_iff.2 h)⟩

/-- Settles O12: the meaning of `NOP` is the state it is given. -/
theorem nopChangesNothing : Obligations.NopChangesNothing :=
  ⟨fun w h => by simp only [decode, h], fun _ => rfl⟩

end Sys2Proof.Machine
end

section
/-! PROOF. The phase advance of one sample (rules R185, R186). -/

namespace Sys2Proof.Machine

open Sys2Proof.Config

theorem phaseAdvance_phase (o : Op) :
    (phaseAdvance o).phase = (o.phase + mulQ o.pinc o.pb) % twoPiQ := rfl

theorem phaseAdvance_phase_within (o : Op) : Within (phaseAdvance o).phase 0 (twoPiQ - 1) :=
  emod_within _ (by decide)

/-- An advance by nothing leaves a legal phase, and with it the operator, as it is. -/
theorem phaseAdvance_eq_self {o : Op} (hadv : mulQ o.pinc o.pb = 0)
    (hphase : Within o.phase 0 (twoPiQ - 1)) : phaseAdvance o = o := by
  obtain ⟨hlo, hhi⟩ := hphase
  have hwrap : o.phase % twoPiQ = o.phase := Int.emod_eq_of_lt hlo (Int.lt_of_le_sub_one hhi)
  rw [phaseAdvance, hadv, add_zero, hwrap]

/-- Settles O33: the phase is a remainder of `TWO_PI_Q`; the bend `ONE` scales the increment by nothing, and
an increment or a bend of 0 advances by nothing. -/
theorem phaseAdvanceWraps : Obligations.PhaseAdvanceWraps := by
  refine fun o => ⟨rfl, phaseAdvance_phase_within o, fun hbend => ?_, fun hzero => phaseAdvance_eq_self ?_⟩
  · rw [phaseAdvance_phase, hbend, mulQ_one]
  · rcases hzero with hpinc | hbend
    · rw [hpinc, mulQ_zero_left]
    · rw [hbend, mulQ_zero_right]

end Sys2Proof.Machine
end

section
/-! PROOF. The event a step takes, where requests of the sink are presented, and runs (rules R202, R203, R207,
R226, R235). -/

namespace Sys2Proof.Machine

theorem nextEvent_of_empty {s : State} (h : s.fifo = []) : nextEvent s = takeFirst true s.pending := by
  simp [nextEvent, hasData, avail, h]

theorem nextEvent_of_data {s : State} {w : StreamWord} {rest : List StreamWord} (h : s.fifo = w :: rest) :
    nextEvent s = takeFirst false s.pending := by
  simp [nextEvent, hasData, avail, h]

/-- A held request stays ahead of what is left of the events behind it (rule R203; log 3). -/
theorem takeFirst_held_pop (es : List Event) :
    takeFirst true (.pop :: es) = (takeFirst true es).map fun (e, rest) => (e, .pop :: rest) := by
  rw [takeFirst, if_pos rfl]
  cases takeFirst true es <;> rfl

theorem takeFirst_held_pops (n : Nat) (es : List Event) :
    takeFirst true (List.replicate n .pop ++ es) =
      (takeFirst true es).map fun (e, rest) => (e, List.replicate n .pop ++ rest) := by
  induction n with
  | zero => simp
  | succ n ih =>
    rw [List.replicate_succ, List.cons_append, takeFirst_held_pop, ih, Option.map_map]
    rfl

/-- Settles O6: held requests only prefix what the events behind them give. -/
theorem heldPopStopsOnlyTheSink : Obligations.HeldPopStopsOnlyTheSink := by
  refine fun s n hempty => ⟨fun hpending => step_none ?_, fun e rest he hpending => step_some ?_⟩
  · rw [nextEvent_of_empty hempty, hpending, ← List.append_nil (List.replicate n Event.pop),
      takeFirst_held_pops]
    rfl
  · rw [nextEvent_of_empty hempty, hpending, takeFirst_held_pops, takeFirst_of_ne_pop he]
    rfl

theorem pop_of_data {s : State} {w : StreamWord} {rest : List StreamWord} (h : s.fifo = w :: rest) :
    pop s = { s with fifo := rest, delivered := s.delivered ++ [w] } := by
  rcases pop_cases s with ⟨hempty, _⟩ | ⟨w', rest', hfifo, hpop⟩
  · rw [h] at hempty; cases hempty
  · rw [h] at hfifo; cases hfifo; exact hpop

/-- Settles O7: with a word queued the request presented first is taken, and it pops the head. -/
theorem popReturnsTheHeadWord : Obligations.PopReturnsTheHeadWord := by
  intro s w rest later hfifo hpending
  have hnext : nextEvent s = some (.pop, later) := by
    rw [nextEvent_of_data hfifo, hpending, takeFirst_hasData]
  calc step s = .next (pop { s with pending := later }) := step_some hnext
    _ = _ := congrArg Host.Outcome.next (pop_of_data hfifo)

theorem run_succ_of_step {M : Host.Core} {s t : M.State} (h : M.step s = .next t) (k : Nat) :
    M.run (k + 1) s = M.run k t := by
  rw [Host.Core.run, h]

/-- Settles O9, by induction on the length of the run: each step answers a next state, from which the rest of
the run goes on. -/
theorem noRunEverStops : Obligations.NoRunEverStops := by
  intro k
  induction k with
  | zero => exact fun s => ⟨s, rfl⟩
  | succ k ih =>
    intro s
    obtain ⟨t, hstep⟩ := stepWith_next algRom s
    obtain ⟨u, hrun⟩ := ih t
    exact ⟨u, (run_succ_of_step (M := Sys2Proof.core) hstep k).trans hrun⟩

end Sys2Proof.Machine
end

section
/-! PROOF. The stream commands, the sample FIFO and the batch (rules R196 to R201). -/

namespace Sys2Proof.Machine

open Sys2Proof.Config

/-- Settles O23: the three opcodes carry no field, and each meaning is the write of its bit. -/
theorem streamCommandsWriteOneBit : Obligations.StreamCommandsWriteOneBit :=
  ⟨fun w h => by simp only [decode, h], fun w h => by simp only [decode, h],
    fun w h => by simp only [decode, h], fun _ => ⟨rfl, rfl, rfl⟩⟩

theorem fifoPush_of_room (l r : Int) {s : State} (h : s.fifo.length + 2 ≤ fifoDepth) :
    fifoPush l r s = { s with fifo := s.fifo ++ [BitVec.ofInt 16 l, BitVec.ofInt 16 r] } := if_pos h

theorem fifoPush_of_full (l r : Int) {s : State} (h : ¬ s.fifo.length + 2 ≤ fifoDepth) :
    fifoPush l r s = { s with overrun := true } := if_neg h

/-- Settles O52: two free words are room for a frame. -/
theorem framesEnterTheFifoWholeOrNotAtAll : Obligations.FramesEnterTheFifoWholeOrNotAtAll := by
  intro l r s
  have hroom : 2 ≤ 1024 - avail s ↔ s.fifo.length + 2 ≤ fifoDepth := by
    rw [avail, fifoDepth]
    omega
  exact ⟨fun h => fifoPush_of_room l r (hroom.1 h), fun h => fifoPush_of_full l r (hroom.not.1 h)⟩

/-- `t` has `n` frames more in the FIFO than `s`, behind the words `s` had there, and none was lost. -/
structure FramesQueued (n : Nat) (s t : State) : Prop where
  run : t.run = s.run
  overrun : t.overrun = s.overrun
  length : t.fifo.length = s.fifo.length + 2 * n
  queued : s.fifo <+: t.fifo

theorem FramesQueued.refl (s : State) : FramesQueued 0 s s := ⟨rfl, rfl, rfl, List.prefix_rfl⟩

theorem FramesQueued.trans {m n : Nat} {s t u : State} (h : FramesQueued m s t) (h' : FramesQueued n t u) :
    FramesQueued (m + n) s u where
  run := h'.run.trans h.run
  overrun := h'.overrun.trans h.overrun
  length := by rw [h'.length, h.length]; omega
  queued := h.queued.trans h'.queued

/-- One frame generated with room for it. -/
theorem generate_framesQueued (rom : AlgRom) (p : FxParams) (rem : Nat) {s : State}
    (hroom : s.fifo.length + 2 ≤ fifoDepth) : FramesQueued 1 s (generate rom p rem s) := by
  obtain ⟨_, _, he, ⟨_, rfl, rfl⟩ | ⟨hfull, _⟩⟩ := generate_eq rom p s rem
  · rw [he]
    exact ⟨rfl, rfl, List.length_append, List.prefix_append _ _⟩
  · exact absurd hroom (Nat.not_le_of_lt hfull)

theorem generate_batchRem (rom : AlgRom) (p : FxParams) (rem : Nat) (s : State) :
    (generate rom p rem s).batchRem = rem - 1 := by
  rw [generate, fifoPush_batchRem]

/-- The ticks of a batch that has room, by induction on the frames left: `RUN` is read only where no frame is
left (rules R196, R198). -/
theorem iterate_tickWith_inBatch (rom : AlgRom) (p : FxParams) (n : Nat) (s : State)
    (hrem : s.batchRem = n) (hroom : s.fifo.length + 2 * n ≤ fifoDepth) :
    ((tickWith rom p)^[n] s).batchRem = 0 ∧ FramesQueued n s ((tickWith rom p)^[n] s) := by
  induction n generalizing s with
  | zero => exact ⟨hrem, .refl s⟩
  | succ n ih =>
    have hfirst : FramesQueued 1 s (generate rom p s.batchRem s) := generate_framesQueued rom p _ (by omega)
    have hlen := hfirst.length
    rw [Function.iterate_succ_apply, tickWith_of_inBatch (by omega), Nat.add_comm n 1]
    obtain ⟨hend, hrest⟩ := ih (generate rom p s.batchRem s) (by rw [generate_batchRem, hrem]; rfl) (by omega)
    exact ⟨hend, hfirst.trans hrest⟩

/-- Settles O51: every tick of the batch pushes one frame, whatever `RUN` holds. -/
theorem batchRunsToItsEnd : Obligations.BatchRunsToItsEnd := by
  rintro rom p n s _ hrem hroom rfl
  obtain ⟨hend, hqueued⟩ := iterate_tickWith_inBatch rom p n s hrem hroom
  exact ⟨hend, hqueued.run, hqueued.overrun, hqueued.length, hqueued.queued⟩

/-- `t` is `s` but for the FIFO and `OVERRUN`. -/
def SameButFifo (s t : State) : Prop := t = { s with fifo := t.fifo, overrun := t.overrun }

/-- What a frame leaves in the voices and the counter is made without the FIFO and `OVERRUN` (rule R200). -/
theorem generate_sameButFifo (rom : AlgRom) (p : FxParams) (rem : Nat) (s : State) (q : List StreamWord)
    (b : Bool) :
    SameButFifo (generate rom p rem s) (generate rom p rem { s with fifo := q, overrun := b }) := by
  obtain ⟨_, _, hs, _⟩ := generate_eq rom p s rem
  obtain ⟨_, _, ht, _⟩ := generate_eq rom p { s with fifo := q, overrun := b } rem
  rw [hs, ht]
  rfl

/-- Settles O53: the FIFO and `OVERRUN` do not decide whether a frame is made, nor what it leaves elsewhere. -/
theorem overrunNeverAffectsSynthesis : Obligations.OverrunNeverAffectsSynthesis := by
  rintro rom p s _ _ q b rfl rfl
  rcases tickWith_cases rom p s with ⟨hrem, hidle, he⟩ | ⟨hrem, hstart, he⟩ | ⟨hrem, he⟩
  · rw [he, tickWith_of_idle (s := { s with fifo := q, overrun := b }) hrem (Bool.eq_false_iff.1 hidle)]
  · rw [he, tickWith_of_starting (s := { s with fifo := q, overrun := b }) hrem hstart]
    exact generate_sameButFifo rom p _ s q b
  · rw [he, tickWith_of_inBatch (s := { s with fifo := q, overrun := b }) hrem]
    exact generate_sameButFifo rom p _ s q b

end Sys2Proof.Machine
end

section
/-! PROOF. The state `RESET` answers (rule R240). -/

namespace Sys2Proof.Machine

/-- Settles O11: `RESET` answers `State.reset` but for the presented events; the banks are read entry by
entry, and every other register is written out in the definition. -/
theorem resetInstallsEveryValue : Obligations.ResetInstallsEveryValue := by
  refine ⟨fun s => ⟨resetMachine s, rfl, rfl⟩, fun v i => ?_, reset_chans, reset_tpl, ?_⟩
  · rw [reset_voices]
    exact ⟨rfl, rfl, rfl, rfl, reset_ops i⟩
  · exact ⟨rfl, rfl, rfl, rfl, rfl, rfl, rfl, rfl, rfl, rfl, rfl, rfl⟩

end Sys2Proof.Machine
end

section
/-! PROOF. The sine table (rules R210, R211). -/

namespace Sys2Proof.Machine

/-! The four quarters of the table, each read through the first. Neighbouring quarters share the entry between
them. -/

section
variable {k : Nat} (h : k ≤ 1024)
include h

theorem sinRom_firstQuarter : sinRom k = (sinQuarter.getD k 0 : Int) := by
  rw [sinRom, if_pos h]

theorem sinRom_secondQuarter : sinRom (2048 - k) = (sinQuarter.getD k 0 : Int) := by
  rcases h.eq_or_lt with rfl | hlt
  · exact sinRom_firstQuarter le_rfl
  · rw [sinRom, if_neg (by omega), if_pos (by omega), Nat.sub_sub_self (by omega)]

theorem sinRom_thirdQuarter : sinRom (2048 + k) = -(sinQuarter.getD k 0 : Int) := by
  rcases k.eq_zero_or_pos with rfl | hpos
  · exact sinRom_secondQuarter (Nat.zero_le _)
  · rw [sinRom, if_neg (by omega), if_neg (by omega), if_pos (by omega), Nat.add_sub_cancel_left]

theorem sinRom_fourthQuarter : sinRom (4096 - k) = -(sinQuarter.getD k 0 : Int) := by
  rcases h.eq_or_lt with rfl | hlt
  · exact sinRom_thirdQuarter le_rfl
  · rw [sinRom, if_neg (by omega), if_neg (by omega), if_neg (by omega), Nat.sub_sub_self (by omega)]

end

/-- Settles O34: both symmetries compare two quarters of the table; the second one compares the third with
the first and the fourth with the second. -/
theorem sineTableIsSymmetric : Obligations.SineTableIsSymmetric := by
  refine ⟨fun k hk => ?_, fun k hk => ?_, by decide +kernel⟩
  · rw [sinRom_secondQuarter hk, sinRom_firstQuarter hk]
  · rcases Nat.le_total k 1024 with hfirst | hsecond
    · rw [sinRom_thirdQuarter hfirst, sinRom_firstQuarter hfirst]
    · obtain ⟨j, hj, rfl⟩ : ∃ j ≤ 1024, k = 2048 - j := ⟨2048 - k, by omega, by omega⟩
      have hturn : 2048 + (2048 - j) = 4096 - j := by omega
      rw [hturn, sinRom_fourthQuarter hj, sinRom_secondQuarter hj]

end Sys2Proof.Machine
end

section
/-! PROOF. The effects stage and its open curve (rules R190 to R194). -/

namespace Sys2Proof.Machine

open Sys2Proof.Config

section
variable (p : FxParams)

theorem fxDistort_off (x : Int) : fxDistort p 0 x = x := rfl

theorem fxChorus_off (lfo x : Int) : fxChorus p 0 lfo x = x := rfl

theorem fxReverb_off (x : Int) : fxReverb p 0 x = x := rfl

variable {p} in
theorem fxDistort_neg (hodd : ∀ x, p.tanhQ (-x) = -p.tanhQ x) (dist x : Int) :
    fxDistort p dist (-x) = -fxDistort p dist x := by
  unfold fxDistort
  split
  · rw [mulQ_neg_left, hodd]
  · rfl

theorem fxChorus_neg (chorus lfo x : Int) : fxChorus p chorus lfo (-x) = -fxChorus p chorus lfo x := by
  unfold fxChorus
  split
  · rw [mulQ_neg_left]
  · rfl

theorem fxReverb_neg (reverb x : Int) : fxReverb p reverb (-x) = -fxReverb p reverb x := by
  unfold fxReverb
  split
  · rw [mulQ_neg_left]
  · rfl

end

/-- The stage is odd, since each of its three parts is (rule R194). -/
theorem fxWith_neg {p : FxParams} (hodd : ∀ x, p.tanhQ (-x) = -p.tanhQ x) (s : State) (x : Int) :
    fxWith p s (-x) = -fxWith p s x := by
  rw [fxWith, fxDistort_neg hodd, fxChorus_neg, fxReverb_neg, fxWith]

/-- With the three amounts 0 the stage is the identity (rule R194). -/
theorem fxWith_off (p : FxParams) {s : State} (hdist : s.dist = 0) (hchorus : s.chorus = 0)
    (hreverb : s.reverb = 0) (x : Int) : fxWith p s x = x := by
  rw [fxWith, hdist, hchorus, hreverb, fxDistort_off, fxChorus_off, fxReverb_off]

/-- Settles O47: the stages are their definitions with `ONE` written `2 ^ 22`; an odd function is 0 at 0. -/
theorem effectsAreOddAndIdentityAtZero : Obligations.EffectsAreOddAndIdentityAtZero := by
  have hone : (2 : Int) ^ 22 = one := by norm_num
  refine ⟨?_, fun p fs => ?_, fun fs => ?_, fun p s x hdist hchorus hreverb =>
    fxWith_off p hdist hchorus hreverb x, fun p s hodd => ⟨?_, fxWith_neg hodd s⟩⟩
  · rw [hone]
    rintro p s x _ _ rfl rfl
    rfl
  · rw [hone]
    rfl
  · rw [chorusLfoOf]
  · have hzero := fxWith_neg hodd s 0
    rw [neg_zero] at hzero
    omega

/-! ### The curve -/

theorem curveMag_mono (raw : Nat → Nat) : Monotone (curveMag raw) :=
  monotone_nat_of_le_succ fun _ => le_max_left _ _

theorem curveMag_le (raw : Nat → Nat) (n : Nat) : curveMag raw n ≤ 4194304 := by
  induction n with
  | zero => exact Nat.zero_le _
  | succ n ih => exact max_le ih (min_le_left _ _)

theorem curve_natCast (raw : Nat → Nat) (n : Nat) : curve raw n = curveMag raw n := by
  simp [curve]

theorem curve_neg (raw : Nat → Nat) (x : Int) : curve raw (-x) = -curve raw x := by
  unfold curve
  rw [Int.natAbs_neg]
  rcases lt_trichotomy x 0 with hneg | rfl | hpos
  · rw [if_neg (by omega), if_pos hneg, neg_neg]
  · rfl
  · rw [if_pos (by omega), if_neg (by omega)]

theorem abs_curve (raw : Nat → Nat) (x : Int) : |curve raw x| = curveMag raw x.natAbs := by
  unfold curve
  split
  · rw [abs_neg, Nat.abs_cast]
  · rw [Nat.abs_cast]

/-- An odd function rises everywhere if it rises on the numbers that are not negative. -/
theorem curve_mono (raw : Nat → Nat) : Monotone (curve raw) := by
  refine monotone_of_odd_of_monotoneOn_nonneg (curve_neg raw) fun x hx y hy hxy => ?_
  lift x to Nat using hx
  lift y to Nat using hy
  rw [curve_natCast, curve_natCast]
  exact Int.ofNat_le.2 (curveMag_mono raw (Int.ofNat_le.1 hxy))

theorem curve_within (raw : Nat → Nat) (x : Int) : Within (curve raw x) (-one) one := by
  rw [Within, ← abs_le, abs_curve]
  exact Int.ofNat_le.2 (curveMag_le raw _)

/-- The free values that give the curve `f`: its own values, where it is not negative. -/
def rawOf (f : Int → Int) (n : Nat) : Nat := (f n).toNat

/-- The running maximum of a curve that rises, capped at a bound it keeps, is the curve. -/
theorem curveMag_rawOf {f : Int → Int} (hzero : f 0 = 0) (hmono : ∀ x y, x ≤ y → f x ≤ f y)
    (hle : ∀ x, f x ≤ one) (n : Nat) : (curveMag (rawOf f) n : Int) = f n := by
  induction n with
  | zero => exact hzero.symm
  | succ n ih =>
    have hstep : f n ≤ f (n + 1 : Nat) := hmono _ _ (by omega)
    have hnonneg : 0 ≤ f n := hzero ▸ hmono 0 n (by omega)
    have hcap : f (n + 1 : Nat) ≤ 4194304 := hle _
    rw [curveMag, rawOf]
    omega

/-- Settles O48: the running maximum makes the curve rise and its cap bounds it; a curve with the five
properties is given back by its own values, first at `n` and then, both being odd, at `-n`. -/
theorem distortionCurveIsFree : Obligations.DistortionCurveIsFree := by
  refine ⟨fun raw => ⟨rfl, curve_neg raw, fun _ _ h => curve_mono raw h, curve_within raw⟩,
    fun f hzero hodd hmono hbound => ⟨rawOf f, ?_⟩⟩
  have hnat (n : Nat) : curve (rawOf f) n = f n :=
    (curve_natCast _ n).trans (curveMag_rawOf hzero hmono (fun x => (hbound x).2) n)
  funext x
  rcases Int.natAbs_eq x with hx | hx <;> rw [hx]
  · exact hnat _
  · rw [curve_neg, hodd, hnat]

end Sys2Proof.Machine
end
